-- ==== Sys2Proof/Word.lean ====
section
/-! DEFINITION. The words of the block (00_scope R9, R10): u8 is `Byte`, u16 is `Word`, a 4-bit volume is `Nibble`;
and a family of four like things (the four channels of R8, the four loop levels of R27). -/

namespace Sys2Proof

/-- u8 (R10). -/
abbrev Byte := BitVec 8

/-- u16 (R10). -/
abbrev Word := BitVec 16

/-- A 4-bit value: a volume (R104). -/
abbrev Nibble := BitVec 4

/-- An index 0..3. -/
inductive Four where
  | i0
  | i1
  | i2
  | i3
  deriving DecidableEq, Repr, Inhabited

/-- A channel id, 0..3 (R17). -/
abbrev Chan := Four

/-- A loop level, 0..3 (R27). -/
abbrev Level := Four

/-- The number of an index. -/
def Four.toNat : Four → Nat
  | .i0 => 0
  | .i1 => 1
  | .i2 => 2
  | .i3 => 3

/-- Four like things, one for each index: a register file of four entries. -/
structure Quad (α : Type) where
  a0 : α
  a1 : α
  a2 : α
  a3 : α
  deriving DecidableEq, Repr, Inhabited

/-- The entry at an index. -/
def Quad.get {α : Type} (q : Quad α) : Four → α
  | .i0 => q.a0
  | .i1 => q.a1
  | .i2 => q.a2
  | .i3 => q.a3

/-- The family with the entry at one index replaced. -/
def Quad.set {α : Type} (q : Quad α) (i : Four) (x : α) : Quad α :=
  match i with
  | .i0 => { q with a0 := x }
  | .i1 => { q with a1 := x }
  | .i2 => { q with a2 := x }
  | .i3 => { q with a3 := x }

/-- The same entry at every index. -/
def Quad.fill {α : Type} (x : α) : Quad α := ⟨x, x, x, x⟩

end Sys2Proof
end

