-- ==== Sys2Proof/Syntax.lean ====
section
/-! DEFINITION. The instructions: one constructor for each mnemonic of spec/opcode_table.json (30_encoding R59, 47_host R124).
A 16-bit operand is kept as its two bytes in fetch order: WORD_ORDER assembles them when the instruction runs (R58, R42). -/

namespace Sys2Proof

/-- The track bytecode's instructions and the host's `init` calls. -/
inductive Instr where
  /-- 0x00 (R77). -/
  | triplet
  /-- 0x01 (R78). -/
  | tie
  /-- 0x02 (R79). -/
  | dot
  /-- 0x03 (R80). -/
  | oct15va
  /-- 0x04 a (R81). -/
  | flags (a : Byte)
  /-- 0x05 w0 w1 (R83). -/
  | tempo (w0 w1 : Byte)
  /-- 0x06 a (R84). -/
  | gate (a : Byte)
  /-- 0x07 a (R85). -/
  | vol (a : Byte)
  /-- 0x08 a (R86). -/
  | inst (a : Byte)
  /-- 0x09 a (R82). -/
  | oct (a : Byte)
  /-- 0x0A a (R87). -/
  | gtrans (a : Byte)
  /-- 0x0B a (R88). -/
  | trans (a : Byte)
  /-- 0x0C a (R89). -/
  | detune (a : Byte)
  /-- 0x0D a (R90). -/
  | porta (a : Byte)
  /-- 0x0E a t0 t1 (R92). -/
  | loop0 (a t0 t1 : Byte)
  /-- 0x0F a t0 t1 (R92). -/
  | loop1 (a t0 t1 : Byte)
  /-- 0x10 a t0 t1 (R92). -/
  | loop2 (a t0 t1 : Byte)
  /-- 0x11 a t0 t1 (R92). -/
  | loop3 (a t0 t1 : Byte)
  /-- 0x12 a t0 t1 (R93). -/
  | break0 (a t0 t1 : Byte)
  /-- 0x13 a t0 t1 (R93). -/
  | break1 (a t0 t1 : Byte)
  /-- 0x14 a t0 t1 (R93). -/
  | break2 (a t0 t1 : Byte)
  /-- 0x15 a t0 t1 (R93). -/
  | break3 (a t0 t1 : Byte)
  /-- 0x16 t0 t1 (R94). -/
  | jump (t0 t1 : Byte)
  /-- 0x17 a, the operand fetched and ignored (R95). -/
  | halt (a : Byte)
  /-- 0x18 a (R91). -/
  | duty (a : Byte)
  /-- 0x19 a, illegal, the operand fetched and discarded (R96). -/
  | ill19 (a : Byte)
  /-- 0x1A or 0x1B, then a: illegal; `low` is bit 0 of the first byte (R96). -/
  | ill1A1B (low : BitVec 1) (a : Byte)
  /-- 0x1C to 0x1F, then a: illegal; `low` is bits 1:0 of the first byte (R96). -/
  | ill1C1F (low : BitVec 2) (a : Byte)
  /-- An event byte with P = 0; k is the duration class 0..6 (R71, R72). -/
  | rest (k : Fin 7)
  /-- An event byte with P = p, not 0; k is the duration class 0..6 (R71, R73 to R76). -/
  | note (k : Fin 7) (p : BitVec 5)
  /-- init(track, region) with track 0x00..0xEF (R125). -/
  | songInit (track region : Byte)
  /-- init(0xF0, region), stop all (R126). -/
  | metaF0 (region : Byte)
  /-- init(0xF1, region), stop-SFX-only (R127). -/
  | metaF1 (region : Byte)
  /-- init(0xF2, region), silence-now (R128). -/
  | metaF2 (region : Byte)
  /-- init(0xF3, region), pause (R129). -/
  | metaF3 (region : Byte)
  /-- init(0xF4, region), resume (R130). -/
  | metaF4 (region : Byte)
  /-- init(0xF5, region), set fade rate (R131). -/
  | metaF5 (region : Byte)
  /-- init(0xF6, region), commit fade rate (R132). -/
  | metaF6 (region : Byte)
  /-- init(0xF7, region), start linear fade-out (R133). -/
  | metaF7 (region : Byte)
  /-- init(track, region) with track 0xF8..0xFF, refused (R134). -/
  | metaUnknown (track region : Byte)
  deriving DecidableEq, Repr

end Sys2Proof
end

