-- ==== Sys2Proof/WellFormed.lean ====
section
/-! DEFINITION. Which terms of `Instr` are instructions: the operand ranges that the opcode table fixes and the types do not. -/

namespace Sys2Proof

/-- A note's pitch is not 0 (P = 0 is the REST row, R59); a song init's track is at most 0xEF and a refused one's is at
least 0xF8 (R124). Every other field takes every value of its type (R60). -/
def Instr.wellFormed : Instr → Bool
  | .note _ p => p != 0
  | .songInit track _ => decide (track ≤ 0xEF#8)
  | .metaUnknown track _ => decide (0xF8#8 ≤ track)
  | _ => true

/-- The instructions of the track bytecode, which a channel's command loop runs; the others are the host's `init` calls
(R59: "The host meta-commands 0xF0..0xF7 are arguments of `init`, not bytecode"). -/
def Instr.isBytecode : Instr → Bool
  | .songInit _ _ | .metaF0 _ | .metaF1 _ | .metaF2 _ | .metaF3 _ | .metaF4 _ | .metaF5 _ | .metaF6 _ | .metaF7 _
  | .metaUnknown _ _ => false
  | _ => true

end Sys2Proof
end

