-- ==== Sys2Proof/Decode.lean ====
section
/-! DEFINITION. The decoder of track bytecode and of the host's `init` arguments (30_encoding R54 to R60, 47_host R124), and
after it an encoder written from the same tables. The decoder is total: every first byte has exactly one meaning (R54); it
refuses only a text that ends inside an instruction, by name. -/

namespace Sys2Proof

/-- Why a list of bytes is no instruction: it ends before the instruction does. -/
inductive DecodeError where
  /-- There is no first byte. -/
  | noByte
  /-- The instruction that begins with `b` is longer than the bytes given. -/
  | truncated (b : Byte)
  deriving DecidableEq, Repr

/-- The length of an instruction, told from byte 0 alone (R57). The illegal bytes fetch two (R55). -/
def instrLength (b0 : Byte) : Nat :=
  if 0x20#8 ≤ b0 then 1
  else if b0 ≤ 0x03#8 then 1
  else if b0 = 0x05#8 ∨ b0 = 0x16#8 then 3
  else if 0x0E#8 ≤ b0 ∧ b0 ≤ 0x15#8 then 4
  else 2

/-- An event byte's duration class k = b[7:5] - 1 (R58). -/
def eventClass (b0 : Byte) : Fin 7 := ⟨b0.toNat / 32 - 1, by have := b0.isLt; omega⟩

/-- The event of a byte 0x20..0xFF: a rest when P = b[4:0] is 0, else a note (R58, R59). -/
def decodeEvent (b0 : Byte) : Instr :=
  if b0.extractLsb' 0 5 = 0 then .rest (eventClass b0) else .note (eventClass b0) (b0.extractLsb' 0 5)

/-- The instruction that begins with byte b0, the bytes after it being b1, b2, b3 as far as it has them (R56, R59). -/
def decode4 (b0 b1 b2 b3 : Byte) : Instr :=
  match b0.toNat with
  | 0x00 => .triplet
  | 0x01 => .tie
  | 0x02 => .dot
  | 0x03 => .oct15va
  | 0x04 => .flags b1
  | 0x05 => .tempo b1 b2
  | 0x06 => .gate b1
  | 0x07 => .vol b1
  | 0x08 => .inst b1
  | 0x09 => .oct b1
  | 0x0A => .gtrans b1
  | 0x0B => .trans b1
  | 0x0C => .detune b1
  | 0x0D => .porta b1
  | 0x0E => .loop0 b1 b2 b3
  | 0x0F => .loop1 b1 b2 b3
  | 0x10 => .loop2 b1 b2 b3
  | 0x11 => .loop3 b1 b2 b3
  | 0x12 => .break0 b1 b2 b3
  | 0x13 => .break1 b1 b2 b3
  | 0x14 => .break2 b1 b2 b3
  | 0x15 => .break3 b1 b2 b3
  | 0x16 => .jump b1 b2
  | 0x17 => .halt b1
  | 0x18 => .duty b1
  | 0x19 => .ill19 b1
  | 0x1A => .ill1A1B 0 b1
  | 0x1B => .ill1A1B 1 b1
  | 0x1C => .ill1C1F 0 b1
  | 0x1D => .ill1C1F 1 b1
  | 0x1E => .ill1C1F 2 b1
  | 0x1F => .ill1C1F 3 b1
  | _ => decodeEvent b0

/-- The first instruction of a list of bytes, with the rest of the list. -/
def decode : List Byte → Except DecodeError (Instr × List Byte)
  | [] => .error .noByte
  | b0 :: rest =>
    match instrLength b0, rest with
    | 1, r => .ok (decode4 b0 0 0 0, r)
    | 2, b1 :: r => .ok (decode4 b0 b1 0 0, r)
    | 3, b1 :: b2 :: r => .ok (decode4 b0 b1 b2 0, r)
    | 4, b1 :: b2 :: b3 :: r => .ok (decode4 b0 b1 b2 b3, r)
    | _, _ => .error (.truncated b0)

/-- The instruction a host's `init(track, region)` stands for (R124, R134). -/
def decodeHost (track region : Byte) : Instr :=
  if track ≤ 0xEF#8 then .songInit track region
  else if track = 0xF0#8 then .metaF0 region
  else if track = 0xF1#8 then .metaF1 region
  else if track = 0xF2#8 then .metaF2 region
  else if track = 0xF3#8 then .metaF3 region
  else if track = 0xF4#8 then .metaF4 region
  else if track = 0xF5#8 then .metaF5 region
  else if track = 0xF6#8 then .metaF6 region
  else if track = 0xF7#8 then .metaF7 region
  else .metaUnknown track region

/-! ## The encoder -/

/-- What an instruction is written as: bytes of a track, in fetch order, or the arguments of an `init` call. -/
inductive Encoding where
  | bytecode (bytes : List Byte)
  | initCall (track region : Byte)
  deriving DecidableEq, Repr

/-- The event byte {L, P} with L = k + 1 (R58, R61). -/
def encodeEvent (k : Fin 7) (p : BitVec 5) : Byte := BitVec.ofNat 3 (k.val + 1) ++ p

/-- The words of an instruction (R56, R59, R61, R124). -/
def encode : Instr → Encoding
  | .triplet => .bytecode [0x00]
  | .tie => .bytecode [0x01]
  | .dot => .bytecode [0x02]
  | .oct15va => .bytecode [0x03]
  | .flags a => .bytecode [0x04, a]
  | .tempo w0 w1 => .bytecode [0x05, w0, w1]
  | .gate a => .bytecode [0x06, a]
  | .vol a => .bytecode [0x07, a]
  | .inst a => .bytecode [0x08, a]
  | .oct a => .bytecode [0x09, a]
  | .gtrans a => .bytecode [0x0A, a]
  | .trans a => .bytecode [0x0B, a]
  | .detune a => .bytecode [0x0C, a]
  | .porta a => .bytecode [0x0D, a]
  | .loop0 a t0 t1 => .bytecode [0x0E, a, t0, t1]
  | .loop1 a t0 t1 => .bytecode [0x0F, a, t0, t1]
  | .loop2 a t0 t1 => .bytecode [0x10, a, t0, t1]
  | .loop3 a t0 t1 => .bytecode [0x11, a, t0, t1]
  | .break0 a t0 t1 => .bytecode [0x12, a, t0, t1]
  | .break1 a t0 t1 => .bytecode [0x13, a, t0, t1]
  | .break2 a t0 t1 => .bytecode [0x14, a, t0, t1]
  | .break3 a t0 t1 => .bytecode [0x15, a, t0, t1]
  | .jump t0 t1 => .bytecode [0x16, t0, t1]
  | .halt a => .bytecode [0x17, a]
  | .duty a => .bytecode [0x18, a]
  | .ill19 a => .bytecode [0x19, a]
  | .ill1A1B low a => .bytecode [0b0001101#7 ++ low, a]
  | .ill1C1F low a => .bytecode [0b000111#6 ++ low, a]
  | .rest k => .bytecode [encodeEvent k 0]
  | .note k p => .bytecode [encodeEvent k p]
  | .songInit track region => .initCall track region
  | .metaF0 region => .initCall 0xF0 region
  | .metaF1 region => .initCall 0xF1 region
  | .metaF2 region => .initCall 0xF2 region
  | .metaF3 region => .initCall 0xF3 region
  | .metaF4 region => .initCall 0xF4 region
  | .metaF5 region => .initCall 0xF5 region
  | .metaF6 region => .initCall 0xF6 region
  | .metaF7 region => .initCall 0xF7 region
  | .metaUnknown track region => .initCall track region

/-- The decoder on either kind of words: the instruction, and the bytes after it. -/
def decodeEncoding : Encoding → Except DecodeError (Instr × List Byte)
  | .bytecode bytes => decode bytes
  | .initCall track region => .ok (decodeHost track region, [])

/-- Byte i of a word whose first byte is its least significant one, the bits from `nbits` up being 0. -/
def tableByte (nbits w i : Nat) : Byte := BitVec.ofNat 8 (w % 2 ^ nbits / 2 ^ (8 * i))

/-- The instruction the decoder reads from a word numbered as spec/opcode_table.json numbers it. A word of no bits is a row
of format HOST, whose bits are `init`'s track (the table gives those rows length 0); any other word is bytecode, also
where a HOST row's match would read the same (log entry 14). -/
def decodeTableWord (nbits w : Nat) : Option Instr :=
  if nbits = 0 then some (decodeHost (BitVec.ofNat 8 w) 0)
  else
    match decode [tableByte nbits w 0, tableByte nbits w 1, tableByte nbits w 2, tableByte nbits w 3] with
    | .ok (i, _) => some i
    | .error _ => none

end Sys2Proof
end

