-- ==== Sys2Proof/Machine/Flags.lean ====
section
/-! DEFINITION. Every operation on a sequencer's flag byte (R28, R29): bit 0 triplet, bit 1 tie, bit 2 dot, bit 3 15va,
bits 6:4 octave, bit 7 reserved. -/

namespace Sys2Proof.Machine

/-- The triplet flag, flags[0]. -/
def flagTriplet (f : Byte) : Bool := f.getLsbD 0

/-- The tie flag, flags[1]. -/
def flagTie (f : Byte) : Bool := f.getLsbD 1

/-- The dot flag, flags[2]. -/
def flagDot (f : Byte) : Bool := f.getLsbD 2

/-- flags[0] <- 1 - flags[0] (R77). -/
def toggleTriplet (f : Byte) : Byte := f ^^^ 0x01

/-- flags[1] <- 1 - flags[1] (R78). -/
def toggleTie (f : Byte) : Byte := f ^^^ 0x02

/-- flags[2] <- 1 (R79). -/
def setDot (f : Byte) : Byte := f ||| 0x04

/-- flags[2] <- 0 (R71). -/
def clearDot (f : Byte) : Byte := f &&& 0xFB

/-- flags[3] <- 1 - flags[3] (R80). -/
def toggle15va (f : Byte) : Byte := f ^^^ 0x08

/-- {flags[7:4], a[3:0]}: the overwrite of the low flag bits (R81, R93). -/
def overwriteLow (f a : Byte) : Byte := f.extractLsb' 4 4 ++ a.extractLsb' 0 4

/-- flags[6:4] <- a[2:0] (R82). -/
def setOctave (f a : Byte) : Byte := f.extractLsb' 7 1 ++ a.extractLsb' 0 3 ++ f.extractLsb' 0 4

/-- The octave-table index {flags[3], flags[6:4]} (R28, R74). -/
def octaveIndex (f : Byte) : BitVec 4 := f.extractLsb' 3 1 ++ f.extractLsb' 4 3

end Sys2Proof.Machine
end

