-- ==== Sys2Proof/Config.lean ====
section
/-! DEFINITION. The implementation parameters of 00_scope R8, as ONE structure of plain data that the state carries and no
step changes (log entry 4), and the free values with no body that stand for the OPEN ones (log entries 5, 6). The OPEN
functions' obligations are met by the wrappers of Machine/Operands.lean; SFX_STEP and SFX_START, whose argument is the
state, are in Machine/Sfx.lean. -/

namespace Sys2Proof

/-- CH_KIND's values (R8). -/
inductive ChKind where
  | pulse
  | triangle
  | noise
  deriving DecidableEq, Repr, Inhabited

/-- WORD_ORDER's values (R8, R12): which byte of a 16-bit quantity stands at the lower address. -/
inductive WordOrder where
  | hiFirst
  | loFirst
  deriving DecidableEq, Repr, Inhabited

/-- LOOP_END_RULE's values (R8, R92). -/
inductive LoopEndRule where
  | expiryJump
  | classicRepeat
  deriving DecidableEq, Repr, Inhabited

/-- The value of an OPEN function parameter: the spec's reference version, or the n-th free function, of which nothing is
known but the obligations the spec gives it (R8, R104, R105, R107, R113, R119; log entries 6, 7). -/
inductive FnChoice where
  | reference
  | free (n : Nat)
  deriving DecidableEq, Repr, Inhabited

/-- The parameters of R8. NCH is fixed at 4 (`Four`), RATE_TABLE and SILENCE are fixed (Machine/Operands.lean),
REGION_EFFECT is none (log entry 11), ROM is the field `rom` of the state. -/
structure Cfg where
  /-- CH_KIND(c). -/
  chKind : Quad ChKind
  /-- WORD_ORDER. -/
  wordOrder : WordOrder
  /-- SONG_TABLE_ADDR. -/
  songTableAddr : Word
  /-- TRACK_COUNT - 1: TRACK_COUNT is in 1..240 (R8, R125; log entry 13). -/
  trackCountPred : Fin 240
  /-- NOTE_LEN[0], the table of a track whose triplet flag is 0. -/
  noteLen : Vector Byte 7
  /-- NOTE_LEN[1], the table of a track whose triplet flag is 1. -/
  noteLenTriplet : Vector Byte 7
  /-- OCTAVE_TABLE. -/
  octaveTable : Vector Byte 16
  /-- NOTE_PERIOD. -/
  notePeriod : Vector Word 96
  /-- REG_VOL(c). -/
  regVol : Quad Word
  /-- REG_LO(c). -/
  regLo : Quad Word
  /-- REG_HI(c). -/
  regHi : Quad Word
  /-- REG_ENABLE. -/
  regEnable : Word
  /-- ENABLE_VALUE. -/
  enableValue : Byte
  /-- HI_CACHE_RESET. -/
  hiCacheReset : Byte
  /-- VOL_COMBINE (R104). -/
  volCombine : FnChoice
  /-- TREMOLO (R105). -/
  tremolo : FnChoice
  /-- VIB_MAG (R113). -/
  vibMag : FnChoice
  /-- TRI_VALUE (R107). -/
  triValue : FnChoice
  /-- FADE_CHANNELS, as the bit of each channel. -/
  fadeChannels : Quad Bool
  /-- LOOP_END_RULE. -/
  loopEndRule : LoopEndRule
  /-- LOOP_BREAK_CLEARS. -/
  loopBreakClears : Bool
  /-- SFX_STEP (R117). -/
  sfxStep : FnChoice
  /-- SFX_START (R118). -/
  sfxStart : FnChoice
  deriving DecidableEq, Repr

/-- TRACK_COUNT, in 1..240 (R8). -/
def Cfg.trackCount (k : Cfg) : Nat := k.trackCountPred.val + 1

/-! The free values: opaque constants with no body. -/

/-- SONG_TABLE_ADDR: OPEN (R8). -/
opaque Config.songTableAddr : Word
/-- TRACK_COUNT - 1: OPEN (R8). -/
opaque Config.trackCountPred : Fin 240
/-- NOTE_LEN[0]: OPEN (R8, D9). -/
opaque Config.noteLen : Vector Byte 7
/-- NOTE_LEN[1]: OPEN (R8, D9). -/
opaque Config.noteLenTriplet : Vector Byte 7
/-- OCTAVE_TABLE: OPEN (R8, D8). -/
opaque Config.octaveTable : Vector Byte 16
/-- NOTE_PERIOD: OPEN (R8). -/
opaque Config.notePeriod : Vector Word 96
/-- The n-th free VOL_COMBINE, before its obligation VOL_COMBINE(0, t) = 0 (R104). -/
opaque Config.freeVolCombine : Nat → Nibble → Nibble → Nibble
/-- The n-th free TREMOLO, before its obligation to be at most v (R105). -/
opaque Config.freeTremolo : Nat → Nibble → Byte → Bool → Byte → Nibble
/-- The n-th free VIB_MAG, before its obligation VIB_MAG(ph, 0) = 0; the result is below 0x4000 (R113). -/
opaque Config.freeVibMag : Nat → Byte → Byte → BitVec 14
/-- The n-th free TRI_VALUE, before its obligation TRI_VALUE(0) = 0 (R107). -/
opaque Config.freeTriValue : Nat → Nibble → Byte

/-- The parameters of the state after power-on: the defaults of R8 (log entry 8), the OPEN ones free (log entries 5, 6, 7). -/
def Cfg.initial : Cfg where
  chKind := ⟨.pulse, .pulse, .triangle, .noise⟩
  wordOrder := .hiFirst
  songTableAddr := Config.songTableAddr
  trackCountPred := Config.trackCountPred
  noteLen := Config.noteLen
  noteLenTriplet := Config.noteLenTriplet
  octaveTable := Config.octaveTable
  notePeriod := Config.notePeriod
  regVol := ⟨0x4000, 0x4004, 0x4008, 0x400C⟩
  regLo := ⟨0x4002, 0x4006, 0x400A, 0x400E⟩
  regHi := ⟨0x4003, 0x4007, 0x400B, 0x400F⟩
  regEnable := 0x4015
  enableValue := 0x0F
  hiCacheReset := 0xFF
  volCombine := .free 0
  tremolo := .free 0
  vibMag := .free 0
  triValue := .free 0
  fadeChannels := ⟨true, true, false, false⟩
  loopEndRule := .expiryJump
  loopBreakClears := true
  sfxStep := .free 0
  sfxStart := .free 0

end Sys2Proof
end

