-- ==== Sys2Proof/Machine/Operands.lean ====
section
/-! DEFINITION. Operand forms and the functions of bytes the rules compute with: word assembly (R12, R58), the fields of a
byte operand (R25, R26, R81, R82, R85, R91), the fixed tables (R98, SILENCE of R8), and VOL_COMBINE, TREMOLO, VIB_MAG and
TRI_VALUE as their reference version or a free function held to its obligation (R104, R105, R107, R113). -/

namespace Sys2Proof.Machine

/-! ## Words and bytes -/

/-- hi8(v) = v[15:8] (R10). -/
def hi8 (v : Word) : Byte := v.extractLsb' 8 8

/-- lo8(v) = v[7:0] (R10). -/
def lo8 (v : Word) : Byte := v.extractLsb' 0 8

/-- The u16 whose bytes are x then y in address (or fetch) order, under WORD_ORDER (R12, R13, R58). -/
def assemble (o : WordOrder) (x y : Byte) : Word :=
  match o with
  | .hiFirst => x ++ y
  | .loFirst => y ++ x

/-! ## Fields of a byte operand -/

/-- volDuty with VOL's operand merged: {volDuty[7:6], 1, 1, a[3:0]} (R85). -/
def mergeVolume (volDuty a : Byte) : Byte := volDuty.extractLsb' 6 2 ++ 0b11#2 ++ a.extractLsb' 0 4

/-- volDuty with a byte's duty field: {a[7:6], volDuty[5:0]} (R91, R99). -/
def mergeDuty (volDuty a : Byte) : Byte := a.extractLsb' 6 2 ++ volDuty.extractLsb' 0 6

/-- The track volume volDuty[3:0] (R25). -/
def trackVolume (volDuty : Byte) : Nibble := volDuty.extractLsb' 0 4

/-- The register value {volDuty[7:4], v} of a pulse or noise channel (R25, R103). -/
def volumeByte (volDuty : Byte) (v : Nibble) : Byte := volDuty.extractLsb' 4 4 ++ v

/-- The portamento magnitude portaRate[6:0] (R26). -/
def portaMagnitude (portaRate : Byte) : BitVec 7 := portaRate.extractLsb' 0 7

/-- The glide step 2 * portaRate[6:0] (R26, R109). -/
def portaStep (portaRate : Byte) : Word := BitVec.ofNat 16 (2 * (portaMagnitude portaRate).toNat)

/-- The portamento direction bit portaRate[7] (R26, R110). -/
def portaUp (portaRate : Byte) : Bool := portaRate.getLsbD 7

/-- The low 14 bits of a period (R109, R112). -/
def low14 (p : Word) : BitVec 14 := p.extractLsb' 0 14

/-! ## Event arithmetic -/

/-- An event's length after the dot extension wrap8(d + (d >> 1)) (R71). -/
def dotted (d : Byte) : Byte := d + d >>> 1

/-- The gate formula (gate * d) >> 8, minimum 1 (R73). -/
def gateSustain (gate d : Byte) : Byte :=
  let s := gate.toNat * d.toNat / 256
  BitVec.ofNat 8 (if s = 0 then 1 else s)

/-- The absolute note: the 8-bit wrapped sum, clamped to 95 (R74). -/
def absoluteNote (octaveEntry gtrans ttrans : Byte) (p : BitVec 5) : Fin 96 :=
  ⟨min (octaveEntry + (p.zeroExtend 8 - 1) + gtrans + ttrans).toNat 95, by omega⟩

/-! ## Fixed tables -/

/-- RATE_TABLE (R98). -/
def rateTable : Vector Byte 32 :=
  #v[0, 1, 2, 3, 4, 5, 6, 7, 8, 9, 10, 11, 12, 14, 15, 16, 18, 19, 20, 22, 24, 27, 30, 35, 40, 48, 60, 80, 126, 127, 254, 255]

/-- RATE(r) = RATE_TABLE[r[4:0]] (R98). -/
def rate (r : Byte) : Byte := rateTable[r.toNat % 32]'(Nat.mod_lt _ (by decide))

/-- SILENCE(c): 0x30, on the triangle-kind channel 0x00 (R8). -/
def silenceOf (k : ChKind) : Byte :=
  match k with
  | .triangle => 0x00
  | .pulse | .noise => 0x30

/-! ## Parameter tables -/

/-- NOTE_LEN[t][k] (R8, R71). -/
def noteLength (k : Cfg) (triplet : Bool) (cls : Fin 7) : Byte :=
  if triplet then k.noteLenTriplet[cls] else k.noteLen[cls]

/-- OCTAVE_TABLE[i] (R8, R74). -/
def octaveEntry (k : Cfg) (i : BitVec 4) : Byte := k.octaveTable[i.toNat]'i.isLt

/-- NOTE_PERIOD[n] (R8, R75). -/
def periodEntry (k : Cfg) (n : Fin 96) : Word := k.notePeriod[n]

/-! ## Parameter functions -/

/-- REF_VOL_COMBINE(e, t) = (e * (t + 1)) >> 4 (R104). -/
def refVolCombine (e t : Nibble) : Nibble := BitVec.ofNat 4 (e.toNat * (t.toNat + 1) / 16)

/-- VOL_COMBINE(e, t): a 4-bit result, 0 when e = 0 (R104). -/
def volCombine (f : FnChoice) (e t : Nibble) : Nibble :=
  match f with
  | .reference => refVolCombine e t
  | .free n => if e = 0 then 0 else Config.freeVolCombine n e t

/-- REF_TREMOLO (R105). -/
def refTremolo (v : Nibble) (ph : Byte) (pol : Bool) (d : Byte) : Nibble :=
  let f := if pol then 0xFF - ph.toNat else ph.toNat
  let att := f * d.toNat / 4096
  BitVec.ofNat 4 (if v.toNat > att then v.toNat - att else 0)

/-- TREMOLO(v, ph, pol, d): never above v (R105). -/
def tremolo (f : FnChoice) (v : Nibble) (ph : Byte) (pol : Bool) (d : Byte) : Nibble :=
  match f with
  | .reference => refTremolo v ph pol d
  | .free n => BitVec.ofNat 4 (min v.toNat (Config.freeTremolo n v ph pol d).toNat)

/-- REF_VIB_MAG(ph, d) = (ph * d) >> 8 (R113). -/
def refVibMag (ph d : Byte) : BitVec 14 := BitVec.ofNat 14 (ph.toNat * d.toNat / 256)

/-- VIB_MAG(ph, d): below 0x4000, 0 when d = 0 (R113). -/
def vibMag (f : FnChoice) (ph d : Byte) : BitVec 14 :=
  match f with
  | .reference => refVibMag ph d
  | .free n => if d = 0 then 0 else Config.freeVibMag n ph d

/-- REF_TRI_VALUE(v) = (v != 0) ? 0xFF : 0x00 (R107). -/
def refTriValue (v : Nibble) : Byte := if v = 0 then 0x00 else 0xFF

/-- TRI_VALUE(v): 0 when v = 0 (R107). -/
def triValue (f : FnChoice) (v : Nibble) : Byte :=
  match f with
  | .reference => refTriValue v
  | .free n => if v = 0 then 0 else Config.freeTriValue n v

/-- The fade attenuation (v * hi8(fadeCounter)) >> 8 (R106). -/
def fadeVolume (v : Nibble) (fadeCounter : Word) : Nibble := BitVec.ofNat 4 (v.toNat * (hi8 fadeCounter).toNat / 256)

end Sys2Proof.Machine
end

