-- ==== Sys2Proof/Machine/State.lean ====
section
/-! DEFINITION. The state (10_state.md): the global record, four voices, four sequencers; the ROM image and the parameters as
plain data (log entries 3, 4); and the model's own record of the call in progress, the calls to come, the write trace and the
last call's result (log entries 1, 2, 9). -/

namespace Sys2Proof.Machine

/-- The envelope phases in their order Attack < Decay < Sustain < Release < Idle (R24). -/
inductive EnvPhase where
  | attack
  | decay
  | sustain
  | release
  | idle
  deriving DecidableEq, Repr, Inhabited

/-- A voice record (R23). -/
structure Voice where
  /-- Channel id, constant (R20). -/
  id : Chan
  /-- Selected instrument number. -/
  instrNumber : Byte
  /-- Address of the selected instrument record. -/
  instrPtr : Word
  /-- An instrument has been selected since Reset. -/
  hasInstr : Bool
  /-- Envelope phase. -/
  phase : EnvPhase
  /-- Envelope flag reload-pending. -/
  reloadPending : Bool
  /-- Envelope flag portamento-active. -/
  portaActive : Bool
  /-- Envelope flag LFO-polarity. -/
  lfoPolarity : Bool
  /-- LFO phase accumulator. -/
  lfoPhase : Byte
  /-- Volume/duty byte: duty[7:6], marker[5:4], track volume[3:0] (R25). -/
  volDuty : Byte
  /-- Envelope level. -/
  level : Byte
  /-- Detune, read as two's complement. -/
  detune : Byte
  /-- Portamento rate: direction[7], magnitude[6:0] (R26). -/
  portaRate : Byte
  /-- Note index 0..95. -/
  note : Fin 96
  /-- Period before vibrato and detune. -/
  period : Word
  /-- Last-written period high byte. -/
  hiCache : Byte
  deriving DecidableEq, Repr

/-- A sequencer record (R27). -/
structure Seq where
  /-- The channel's program counter; 0 = halted at the sequencer's entry (R30). -/
  cursor : Word
  /-- Flag byte: octave[6:4], 15va[3], dot[2], tie[1], triplet[0], bit 7 reserved (R28). -/
  flags : Byte
  /-- Per-track transpose. -/
  ttrans : Byte
  /-- Note-duration countdown. -/
  duration : Byte
  /-- Gate-time setting. -/
  gate : Byte
  /-- Sustain countdown. -/
  sustain : Byte
  /-- The four loop counters. -/
  loop : Quad Byte
  /-- The previous note event was a note with the tie flag set. -/
  tiedIn : Bool
  deriving DecidableEq, Repr

/-- The record of a CorruptSequence fault: its code (1), the channel, the address of the byte, the byte (R136). -/
structure CorruptSequence where
  code : Nat
  channel : Chan
  addr : Word
  byte : Byte
  deriving DecidableEq, Repr

/-- A call of the host (R122, R118); `claim` holds the bit of each claimed channel. -/
inductive HostCall where
  | advance
  | init (track region : Byte)
  | sfxStart (addr : Word) (claim : Quad Bool)
  deriving DecidableEq, Repr

/-- What a call returns (R122). -/
inductive CallResult where
  | ok
  | faulted (info : CorruptSequence)
  | refused
  deriving DecidableEq, Repr

/-- A write event of the register-write port (R39). -/
structure WriteEvent where
  addr : Word
  value : Byte
  deriving DecidableEq, Repr

/-- The global record (R21). -/
structure Global where
  /-- Global suspend flag. -/
  suspend : Bool
  /-- Global channel-mute. -/
  mute : Bool
  /-- Tempo, 8.8 ticks per frame. -/
  tempo : Word
  /-- Fractional carry of the tempo accumulator. -/
  frac : Byte
  /-- Global transpose. -/
  gtrans : Byte
  /-- SFX stream cursor; 0 = no SFX event. -/
  sfxCursor : Word
  /-- SFX-override bit of each channel. -/
  override : Quad Bool
  /-- Instrument-table pointer. -/
  instrTable : Word
  /-- Fade countdown. -/
  fadeCounter : Word
  /-- Fade attenuation in force. -/
  fadeActive : Bool
  /-- The fade countdown has reached zero. -/
  fadeComplete : Bool
  /-- Rate latched by meta-command 0xF5. -/
  fadeRatePending : Byte
  /-- Rate committed by meta-command 0xF6. -/
  fadeRate : Byte
  /-- Sticky fault record. -/
  fault : Option CorruptSequence
  /-- Sticky refusal mark: the first refused call. -/
  refused : Option HostCall
  deriving DecidableEq, Repr

/-- Where the host call in progress stands (log entry 2): no call; in `advance()`, channel c is to be visited (R65), c's
command loop is running (R70), or the fade update is to be done (R66). `e` is the frame's elapsed ticks E (R64). -/
inductive Phase where
  | ready
  | visit (e : Byte) (c : Chan)
  | loop (e : Byte) (c : Chan)
  | fade (e : Byte)
  deriving DecidableEq, Repr

/-- The ROM image: (address, byte) pairs, addresses strictly rising and below 65536, no entry equal to what an unlisted
address reads as. -/
abbrev Rom := List Host.Cell

/-- What an unlisted ROM address reads as (log entry 3). -/
def Rom.unlisted : Byte := 0x00

/-- The canonical form of a ROM image, from a lower bound for the next address. -/
def Rom.wfFrom : Nat → Rom → Bool
  | _, [] => true
  | lo, (a, b) :: m => decide (lo ≤ a) && decide (a < 65536) && (b != Rom.unlisted) && Rom.wfFrom (a + 1) m

/-- The image is in canonical form. -/
def Rom.wf (m : Rom) : Bool := Rom.wfFrom 0 m

/-- The state of the machine. -/
structure State where
  /-- The global record G. -/
  g : Global
  /-- The voices V[0..3]. -/
  v : Quad Voice
  /-- The sequencers S[0..3]. -/
  q : Quad Seq
  /-- The ROM image. -/
  rom : Rom
  /-- The parameters of R8. -/
  cfg : Cfg
  /-- The model's own: where the call in progress stands. -/
  phase : Phase
  /-- The model's own: the host calls still to come. -/
  calls : List HostCall
  /-- The model's own: the write trace so far (R39). -/
  trace : List WriteEvent
  /-- The model's own: what the last call returned; none while a frame is in progress. -/
  result : Option CallResult
  deriving DecidableEq, Repr

/-- Faults of the machine. There are none: the block's one exception, CorruptSequence, is recorded in the state and ends
the call (R136), so it is a next state, and nothing else is an exception (R135). Nothing raises a fault (log entry 12, safe:
no state is left out). -/
inductive Fault where
  deriving DecidableEq, Repr

/-- Refusals of the model. -/
inductive Refusal where
  /-- Raised by an arm of `exec` whose instruction has no meaning yet; no arm raises it now. Safe: the model stops. -/
  | notModelled (mnemonic : String)
  deriving DecidableEq, Repr

/-- A voice's fields after Voice Reset (R23, R34). -/
def Voice.reset (c : Chan) (instrTable : Word) (hiCacheReset : Byte) : Voice where
  id := c
  instrNumber := 0
  instrPtr := instrTable
  hasInstr := false
  phase := .idle
  reloadPending := false
  portaActive := false
  lfoPolarity := false
  lfoPhase := 0
  volDuty := 0
  level := 0
  detune := 0
  portaRate := 0
  note := 0
  period := 0
  hiCache := hiCacheReset

/-- A sequencer's fields after Sequencer Reset (R27, R35). -/
def Seq.reset : Seq where
  cursor := 0
  flags := 0
  ttrans := 0
  duration := 0
  gate := 0
  sustain := 0
  loop := Quad.fill 0
  tiedIn := false

/-- The global record's reset values, with the two fields a song init keeps (R21). -/
def Global.reset (fault : Option CorruptSequence) (refused : Option HostCall) : Global where
  suspend := false
  mute := false
  tempo := 0
  frac := 0
  gtrans := 0
  sfxCursor := 0
  override := Quad.fill false
  instrTable := 0
  fadeCounter := 0
  fadeActive := false
  fadeComplete := false
  fadeRatePending := 0
  fadeRate := 0
  fault := fault
  refused := refused

/-- The power-on state (R36): every field of G at its reset value, no fault, no refusal, every voice and sequencer reset, no
write event; no byte of ROM listed (log entry 3), the parameters of `Cfg.initial`, no host call pending (log entry 1). -/
def State.reset : State where
  g := Global.reset none none
  v := ⟨Voice.reset .i0 0 Cfg.initial.hiCacheReset, Voice.reset .i1 0 Cfg.initial.hiCacheReset,
    Voice.reset .i2 0 Cfg.initial.hiCacheReset, Voice.reset .i3 0 Cfg.initial.hiCacheReset⟩
  q := Quad.fill Seq.reset
  rom := []
  cfg := Cfg.initial
  phase := .ready
  calls := []
  trace := []
  result := none

end Sys2Proof.Machine
end

