-- ==== Sys2Proof/Machine/Ops.lean ====
section
/-! DEFINITION. The named operations over the state: records, ROM, the write port, the cursor, the resets (R34, R35), the end
of a command loop (R65, R70), raising CorruptSequence (R136) and refusing a call (R139). -/

namespace Sys2Proof.Machine

/-! ## Records -/

/-- V[c]. -/
def State.voice (s : State) (c : Chan) : Voice := s.v.get c

/-- S[c]. -/
def State.seq (s : State) (c : Chan) : Seq := s.q.get c

/-- V[c] <- x. -/
def State.setVoice (s : State) (c : Chan) (x : Voice) : State := { s with v := s.v.set c x }

/-- S[c] <- x. -/
def State.setSeq (s : State) (c : Chan) (x : Seq) : State := { s with q := s.q.set c x }

/-- G <- x. -/
def State.setG (s : State) (x : Global) : State := { s with g := x }

/-- The channel whose command loop runs, or that is being visited; channel 3, the first of a frame, when none is. -/
def State.cur (s : State) : Chan :=
  match s.phase with
  | .visit _ c | .loop _ c => c
  | .ready | .fade _ => .i3

/-- The frame's elapsed ticks E (R64); 0 when no frame is in progress. -/
def State.elapsed (s : State) : Byte :=
  match s.phase with
  | .visit e _ | .loop e _ | .fade e => e
  | .ready => 0

/-! ## The ROM -/

/-- The byte a ROM image holds at an address. -/
def Rom.at (m : Rom) (a : Nat) : Byte :=
  match m with
  | [] => Rom.unlisted
  | (k, b) :: m => if k = a then b else Rom.at m a

/-- A canonical image with the byte at one address replaced: how a byte is placed from outside the block, which never writes
its ROM (R38). -/
def Rom.place (m : Rom) (a : Nat) (b : Byte) : Rom :=
  match m with
  | [] => if b = Rom.unlisted then [] else [(a, b)]
  | (k, x) :: m =>
    if a < k then (if b = Rom.unlisted then (k, x) :: m else (a, b) :: (k, x) :: m)
    else if a = k then (if b = Rom.unlisted then m else (a, b) :: m)
    else (k, x) :: Rom.place m a b

/-- MemRead(addr, 1) (R12, R38). -/
def State.memRead (s : State) (a : Word) : Byte := s.rom.at a.toNat

/-- Read16(addr): the second byte at wrap16(addr + 1) (R12, R42, R43). -/
def State.read16 (s : State) (a : Word) : Word := assemble s.cfg.wordOrder (s.memRead a) (s.memRead (a + 1))

/-- IR(c, k) = MemRead(wrap16(V[c].instrPtr + k), 1) (R45, R97). -/
def State.ir (s : State) (c : Chan) (k : Word) : Byte := s.memRead ((s.voice c).instrPtr + k)

/-- ROM with a list of bytes placed from an address on, wrapping at 0xFFFF. -/
def Rom.placeAll (m : Rom) (a : Word) : List Byte → Rom
  | [] => m
  | b :: bs => Rom.placeAll (m.place a.toNat b) (a + 1) bs

/-! ## The write port -/

/-- RegWrite(addr, v): the write event is appended to the trace (R12, R39). -/
def State.regWrite (s : State) (a : Word) (v : Byte) : State := { s with trace := s.trace ++ [⟨a, v⟩] }

/-- RegWrite(REG_VOL(c), SILENCE(c)) (R95, R126, R128). -/
def State.silence (s : State) (c : Chan) : State := s.regWrite (s.cfg.regVol.get c) (silenceOf (s.cfg.chKind.get c))

/-- The silence writes of channels 3, 2, 1, 0 (R126, R128). -/
def State.silenceAll (s : State) : State := (((s.silence .i3).silence .i2).silence .i1).silence .i0

/-! ## The cursor -/

/-- Fetching n bytes of channel c's track: S[c].cursor <- wrap16(S[c].cursor + n) (R13, R30). -/
def State.advanceCursor (s : State) (c : Chan) (n : Word) : State :=
  s.setSeq c { s.seq c with cursor := (s.seq c).cursor + n }

/-- S[c].cursor <- t (R11). -/
def State.setCursor (s : State) (c : Chan) (t : Word) : State := s.setSeq c { s.seq c with cursor := t }

/-! ## Resets -/

/-- Voice Reset of channel c (R34). -/
def State.voiceReset (s : State) (c : Chan) : State :=
  s.setVoice c { Voice.reset c s.g.instrTable s.cfg.hiCacheReset with id := (s.voice c).id }

/-- Sequencer Reset of channel c (R35). -/
def State.seqReset (s : State) (c : Chan) : State := s.setSeq c Seq.reset

/-! ## The call in progress -/

/-- What follows channel c in a frame: the next lower channel, and after channel 0 the fade update (R63, R65). -/
def afterChannel (e : Byte) : Chan → Phase
  | .i3 => .visit e .i2
  | .i2 => .visit e .i1
  | .i1 => .visit e .i0
  | .i0 => .fade e

/-- Channel c is done with for this frame (R65): its visit, or its command loop, returns. Outside a frame nothing changes
(log entry 15). -/
def State.leaveChannel (s : State) : State :=
  match s.phase with
  | .visit e c | .loop e c => { s with phase := afterChannel e c }
  | .ready | .fade _ => s

/-- The call in progress returns r. -/
def State.finishCall (s : State) (r : CallResult) : State := { s with phase := .ready, result := some r }

/-- raise CorruptSequence(info): the fault is recorded and the call ends at once, returning Faulted(info) (R14, R136). This
is the block's one exception; there is no return from it: the faulted state is sticky (R137, R141). -/
def State.raiseCorrupt (s : State) (info : CorruptSequence) : State :=
  { s with g := { s.g with fault := some info } }.finishCall (.faulted info)

/-- A refused call: the first refusal is kept, nothing else changes, the call returns Refused (R139). -/
def State.refuseCall (s : State) (call : HostCall) : State :=
  { s with g := { s.g with refused := some (s.g.refused.getD call) } }.finishCall .refused

/-- A host call: in a faulted state it has no effect and returns Faulted(G.fault) (R137); else it does f. -/
def State.unlessFaulted (s : State) (f : State → State) : State :=
  match s.g.fault with
  | some info => s.finishCall (.faulted info)
  | none => f s

end Sys2Proof.Machine
end

