-- ==== Sys2Proof/Machine/Envelope.lean ====
section
/-! DEFINITION. The envelope and volume engine (44_envelope.md): Reload, EnvelopeStep, ReleaseTrigger and VolumeWrite. -/

namespace Sys2Proof.Machine

/-- Reload on a voice: back to Attack, the record's duty bits; the level is kept (R99). `dutyByte` is IR(c,7). -/
def Voice.reload (x : Voice) (dutyByte : Byte) : Voice :=
  { x with reloadPending := false, phase := .attack, volDuty := mergeDuty x.volDuty dutyByte }

/-- The Attack step with delta d: saturates at 0xF0, which ends the phase (R100). -/
def Voice.attackStep (x : Voice) (d : Byte) : Voice :=
  if x.level.toNat + d.toNat ≥ 0xF0 then { x with level := 0xF0, phase := .decay }
  else { x with level := x.level + d }

/-- The Decay step with delta d and sustain level sus: d = 0 disables decay; the level is never raised (R100). -/
def Voice.decayStep (x : Voice) (d sus : Byte) : Voice :=
  if d = 0 then x
  else if (x.level.toNat : Int) - d.toNat ≤ sus.toNat then
    { x with level := if x.level ≤ sus then x.level else sus, phase := .sustain }
  else { x with level := x.level - d }

/-- The Release step with delta d: the triangle kind goes idle at once; d = 0 never completes (R100). -/
def Voice.releaseStep (x : Voice) (kind : ChKind) (d : Byte) : Voice :=
  match kind with
  | .triangle => { x with level := 0, phase := .idle }
  | .pulse | .noise =>
    if d = 0 then x
    else if x.level ≤ d then { x with level := 0, phase := .idle }
    else { x with level := x.level - d }

/-- EnvelopeStep on a voice of a channel of kind `kind`; r0..r3 are its record's bytes 0..3 (R100). -/
def Voice.envelopeStep (x : Voice) (kind : ChKind) (r0 r1 r2 r3 : Byte) : Voice :=
  match x.phase with
  | .attack => x.attackStep (rate r0)
  | .decay => x.decayStep (rate r1) r2
  | .sustain => x
  | .release => x.releaseStep kind (rate r3)
  | .idle => x

/-- ReleaseTrigger on a voice: Release and Idle stay (R101). -/
def Voice.release (x : Voice) : Voice :=
  match x.phase with
  | .attack | .decay | .sustain => { x with phase := .release }
  | .release | .idle => x

/-- Reload(c), when V[c].reloadPending = 1 (R67, R99). -/
def State.reloadIfPending (s : State) (c : Chan) : State :=
  if (s.voice c).reloadPending then s.setVoice c ((s.voice c).reload (s.ir c 7)) else s

/-- EnvelopeStep(c) (R100). -/
def State.envelopeStep (s : State) (c : Chan) : State :=
  s.setVoice c ((s.voice c).envelopeStep (s.cfg.chKind.get c) (s.ir c 0) (s.ir c 1) (s.ir c 2) (s.ir c 3))

/-- ReleaseTrigger(c) (R101). -/
def State.releaseTrigger (s : State) (c : Chan) : State := s.setVoice c (s.voice c).release

/-- The output volume of channel c: envelope and track volume combined, tremolo when the depth is at least 5, fade (R103). -/
def State.outputVolume (s : State) (c : Chan) : Nibble :=
  let x := s.voice c
  let v := volCombine s.cfg.volCombine (x.level.extractLsb' 4 4) (trackVolume x.volDuty)
  let v := if 5#8 ≤ s.ir c 6 then tremolo s.cfg.tremolo v x.lfoPhase x.lfoPolarity (s.ir c 6) else v
  if s.g.fadeActive && s.cfg.fadeChannels.get c then fadeVolume v s.g.fadeCounter else v

/-- The byte VolumeWrite emits for a volume: TRI_VALUE on the triangle kind, else {volDuty[7:4], v} (R103, R107). -/
def State.volumeValue (s : State) (c : Chan) (v : Nibble) : Byte :=
  match s.cfg.chKind.get c with
  | .triangle => triValue s.cfg.triValue v
  | .pulse | .noise => volumeByte (s.voice c).volDuty v

/-- VolumeWrite(c): exactly one write, to REG_VOL(c) (R103). -/
def State.volumeWrite (s : State) (c : Chan) : State :=
  s.regWrite (s.cfg.regVol.get c) (s.volumeValue c (s.outputVolume c))

end Sys2Proof.Machine
end

