-- ==== Sys2Proof/Machine/Events.lean ====
section
/-! DEFINITION. Note and rest events (40_scheduler_sequencer.md section 3): the meanings of REST and NOTE. -/

namespace Sys2Proof.Machine

/-- An event's length d: the table by the triplet flag, extended when the dot flag is set (R71). -/
def State.eventLength (s : State) (c : Chan) (k : Fin 7) : Byte :=
  let f := (s.seq c).flags
  let d := noteLength s.cfg (flagTriplet f) k
  if flagDot f then dotted d else d

/-- The duration part of an event: the dot flag is consumed, d is added to the countdown (R71). -/
def State.addDuration (s : State) (c : Chan) (d : Byte) : State :=
  s.setSeq c { s.seq c with flags := clearDot (s.seq c).flags, duration := (s.seq c).duration + d }

/-- Rest(c) (R72). -/
def State.restEvent (s : State) (c : Chan) : State :=
  let s := s.releaseTrigger c
  s.setSeq c { s.seq c with sustain := 0xFF, tiedIn := false }

/-- The period assignment and re-trigger of a note n on a voice (R75). -/
def Voice.noteOn (x : Voice) (n : Fin 96) (target : Word) (retrig : Bool) : Voice :=
  let x := { x with note := n }
  let x :=
    if portaMagnitude x.portaRate = 0 ∨ retrig then { x with period := target, portaActive := false }
    else { x with portaActive := true }
  if retrig then { x with reloadPending := true } else x

/-- The absolute note of pitch P on channel c (R74). -/
def State.noteNumber (s : State) (c : Chan) (p : BitVec 5) : Fin 96 :=
  absoluteNote (octaveEntry s.cfg (octaveIndex (s.seq c).flags)) s.g.gtrans (s.seq c).ttrans p

/-- NoteOn(c, P, d): gate (R73), note (R74), period and re-trigger (R75), tie (R76). -/
def State.noteEvent (s : State) (c : Chan) (p : BitVec 5) (d : Byte) : State :=
  let q := s.seq c
  let n := s.noteNumber c p
  let s := s.setVoice c ((s.voice c).noteOn n (periodEntry s.cfg n) (!q.tiedIn))
  s.setSeq c
    { q with
      sustain := if flagTie q.flags then 0xFF else gateSustain q.gate d
      tiedIn := flagTie q.flags }

/-- REST: one byte fetched, the event's duration, the rest; the command loop returns (R70, R71, R72). -/
def execRest (k : Fin 7) (s : State) : Host.Outcome State Fault Refusal :=
  let c := s.cur
  let s1 := s.advanceCursor c 1
  .next ((s1.addDuration c (s1.eventLength c k)).restEvent c).leaveChannel

/-- NOTE: one byte fetched, the event's duration, the note; the command loop returns (R70, R71, R73 to R76). -/
def execNote (k : Fin 7) (p : BitVec 5) (s : State) : Host.Outcome State Fault Refusal :=
  let c := s.cur
  let s1 := s.advanceCursor c 1
  let d := s1.eventLength c k
  .next ((s1.addDuration c d).noteEvent c p d).leaveChannel

end Sys2Proof.Machine
end

