-- ==== Sys2Proof/Machine/FlagCmds.lean ====
section
/-! DEFINITION. The flag and octave commands (41_cmd_flags.md). -/

namespace Sys2Proof.Machine

/-- A command of n bytes that rewrites the current channel's flag byte; the command loop goes on (R70). -/
def State.flagCommand (s : State) (n : Word) (f : Byte → Byte) : State :=
  let s := s.advanceCursor s.cur n
  s.setSeq s.cur { s.seq s.cur with flags := f (s.seq s.cur).flags }

/-- TRIPLET (R77). -/
def execTriplet (s : State) : Host.Outcome State Fault Refusal := .next (s.flagCommand 1 toggleTriplet)

/-- TIE (R78). -/
def execTie (s : State) : Host.Outcome State Fault Refusal := .next (s.flagCommand 1 toggleTie)

/-- DOT (R79). -/
def execDot (s : State) : Host.Outcome State Fault Refusal := .next (s.flagCommand 1 setDot)

/-- OCT15VA (R80). -/
def execOct15va (s : State) : Host.Outcome State Fault Refusal := .next (s.flagCommand 1 toggle15va)

/-- FLAGS (R81). -/
def execFlags (a : Byte) (s : State) : Host.Outcome State Fault Refusal :=
  .next (s.flagCommand 2 fun f => overwriteLow f a)

/-- OCT (R82). -/
def execOct (a : Byte) (s : State) : Host.Outcome State Fault Refusal :=
  .next (s.flagCommand 2 fun f => setOctave f a)

end Sys2Proof.Machine
end

