-- ==== Sys2Proof/Machine/FlowCmds.lean ====
section
/-! DEFINITION. The control-flow commands (43_cmd_flow.md): loop-end, loop-break, jump, halt and the illegal bytes. -/

namespace Sys2Proof.Machine

/-- A level's counter after a loop-end: a zero counter is reloaded from the operand, then it is decremented (R92). -/
def loopCount (counter a : Byte) : Byte := (if counter = 0 then a else counter) - 1

/-- Whether a loop-end jumps, from its counter after the decrement, under LOOP_END_RULE (R92). -/
def loopJumps (r : LoopEndRule) (counter : Byte) : Bool :=
  match r with
  | .expiryJump => counter == 0
  | .classicRepeat => counter != 0

/-- LOOPk a, T: four bytes; the jump replaces the cursor, else the target bytes are skipped (R92). -/
def State.loopEnd (s : State) (k : Level) (a t0 t1 : Byte) : State :=
  let s := s.advanceCursor s.cur 4
  let q := s.seq s.cur
  let n := loopCount (q.loop.get k) a
  s.setSeq s.cur
    { q with
      loop := q.loop.set k n
      cursor := if loopJumps s.cfg.loopEndRule n then assemble s.cfg.wordOrder t0 t1 else q.cursor }

/-- BREAKk a, T: fires when the level's counter is exactly 1, overwriting the low flag bits first; else the target bytes are
skipped (R93). -/
def State.loopBreak (s : State) (k : Level) (a t0 t1 : Byte) : State :=
  let s := s.advanceCursor s.cur 4
  let q := s.seq s.cur
  if q.loop.get k = 1 then
    s.setSeq s.cur
      { q with
        flags := overwriteLow q.flags a
        loop := if s.cfg.loopBreakClears then q.loop.set k 0 else q.loop
        cursor := assemble s.cfg.wordOrder t0 t1 }
  else s

/-- LOOP0 (R92). -/
def execLoop0 (a t0 t1 : Byte) (s : State) : Host.Outcome State Fault Refusal := .next (s.loopEnd .i0 a t0 t1)

/-- LOOP1 (R92). -/
def execLoop1 (a t0 t1 : Byte) (s : State) : Host.Outcome State Fault Refusal := .next (s.loopEnd .i1 a t0 t1)

/-- LOOP2 (R92). -/
def execLoop2 (a t0 t1 : Byte) (s : State) : Host.Outcome State Fault Refusal := .next (s.loopEnd .i2 a t0 t1)

/-- LOOP3 (R92). -/
def execLoop3 (a t0 t1 : Byte) (s : State) : Host.Outcome State Fault Refusal := .next (s.loopEnd .i3 a t0 t1)

/-- BREAK0 (R93). -/
def execBreak0 (a t0 t1 : Byte) (s : State) : Host.Outcome State Fault Refusal := .next (s.loopBreak .i0 a t0 t1)

/-- BREAK1 (R93). -/
def execBreak1 (a t0 t1 : Byte) (s : State) : Host.Outcome State Fault Refusal := .next (s.loopBreak .i1 a t0 t1)

/-- BREAK2 (R93). -/
def execBreak2 (a t0 t1 : Byte) (s : State) : Host.Outcome State Fault Refusal := .next (s.loopBreak .i2 a t0 t1)

/-- BREAK3 (R93). -/
def execBreak3 (a t0 t1 : Byte) (s : State) : Host.Outcome State Fault Refusal := .next (s.loopBreak .i3 a t0 t1)

/-- JUMP T (R94). -/
def execJump (t0 t1 : Byte) (s : State) : Host.Outcome State Fault Refusal :=
  .next (s.setCursor s.cur (assemble s.cfg.wordOrder t0 t1))

/-- HALT: the cursor is zeroed, the channel silenced unless muted, the command loop returns; the operand is ignored (R95). -/
def execHalt (_a : Byte) (s : State) : Host.Outcome State Fault Refusal :=
  let s1 := s.setCursor s.cur 0
  .next (if s.g.mute then s1 else s1.silence s.cur).leaveChannel

/-- An illegal byte b: two bytes fetched, then CorruptSequence(c, opAddr, b) (R96, R136). -/
def State.illegalByte (s : State) (b : Byte) : State :=
  (s.advanceCursor s.cur 2).raiseCorrupt ⟨1, s.cur, (s.seq s.cur).cursor, b⟩

/-- 0x19 (R96). -/
def execIll19 (_a : Byte) (s : State) : Host.Outcome State Fault Refusal := .next (s.illegalByte 0x19)

/-- 0x1A, 0x1B (R96). -/
def execIll1A1B (low : BitVec 1) (_a : Byte) (s : State) : Host.Outcome State Fault Refusal :=
  .next (s.illegalByte (0b0001101#7 ++ low))

/-- 0x1C to 0x1F (R96). -/
def execIll1C1F (low : BitVec 2) (_a : Byte) (s : State) : Host.Outcome State Fault Refusal :=
  .next (s.illegalByte (0b000111#6 ++ low))

end Sys2Proof.Machine
end

