-- ==== Sys2Proof/Machine/HostCmds.lean ====
section
/-! DEFINITION. The host's `init` calls (47_host.md): song init, the meta-commands, and a refused track. Each first tests
G.fault (R124, R137); `region` is used by 0xF5 only (log entry 11). -/

namespace Sys2Proof.Machine

/-- An `init` call: without effect in a faulted state, else f, returning Ok (R124). -/
def State.initCall (s : State) (f : State → State) : Host.Outcome State Fault Refusal :=
  .next (s.unlessFaulted fun s => (f s).finishCall .ok)

/-- The address of a track's song header: Read16(SONG_TABLE_ADDR + 2 * (track mod TRACK_COUNT)) (R125). -/
def State.songPointer (s : State) (track : Byte) : Word :=
  s.read16 (s.cfg.songTableAddr + BitVec.ofNat 16 (2 * (track.toNat % s.cfg.trackCount)))

/-- Every field of G but the fault and the refusal mark at its reset value, and the instrument table of the song at ptr, 0 for
the empty song (R125). -/
def State.resetGlobal (s : State) (ptr : Word) : State :=
  s.setG { Global.reset s.g.fault s.g.refused with instrTable := if ptr = 0 then 0 else s.read16 ptr }

/-- Voice Reset and Sequencer Reset of channel c, then its cursor from the song header (R125). -/
def State.initChannel (s : State) (ptr : Word) (c : Chan) (offset : Word) : State :=
  let s := (s.voiceReset c).seqReset c
  if ptr = 0 then s else s.setCursor c (s.read16 (ptr + offset))

/-- InitSong(track) (R125). -/
def State.initSong (s : State) (track : Byte) : State :=
  let ptr := s.songPointer track
  let s := s.resetGlobal ptr
  let s := s.initChannel ptr .i0 2
  let s := s.initChannel ptr .i1 4
  let s := s.initChannel ptr .i2 6
  let s := s.initChannel ptr .i3 8
  s.regWrite s.cfg.regEnable s.cfg.enableValue

/-- The SFX layer stopped: cursor 0, every override bit clear (R121). -/
def State.stopSfx (s : State) : State := s.setG { s.g with sfxCursor := 0, override := Quad.fill false }

/-- Every cursor 0 (R126). -/
def State.haltAll (s : State) : State :=
  (((s.setCursor .i0 0).setCursor .i1 0).setCursor .i2 0).setCursor .i3 0

/-- SONG_INIT (R125). -/
def execSongInit (track _region : Byte) (s : State) : Host.Outcome State Fault Refusal :=
  s.initCall fun s => s.initSong track

/-- 0xF0, stop all (R126). -/
def execMetaF0 (_region : Byte) (s : State) : Host.Outcome State Fault Refusal :=
  s.initCall fun s => if s.g.mute then s.haltAll.stopSfx else s.haltAll.stopSfx.silenceAll

/-- 0xF1, stop-SFX-only (R127). -/
def execMetaF1 (_region : Byte) (s : State) : Host.Outcome State Fault Refusal :=
  s.initCall fun s => s.stopSfx

/-- 0xF2, silence-now (R128). -/
def execMetaF2 (_region : Byte) (s : State) : Host.Outcome State Fault Refusal :=
  s.initCall fun s => (s.setG { s.g with mute := true }).stopSfx.silenceAll

/-- 0xF3, pause (R129). -/
def execMetaF3 (_region : Byte) (s : State) : Host.Outcome State Fault Refusal :=
  s.initCall fun s => s.setG { s.g with suspend := true }

/-- 0xF4, resume (R130). -/
def execMetaF4 (_region : Byte) (s : State) : Host.Outcome State Fault Refusal :=
  s.initCall fun s => s.setG { s.g with suspend := false, mute := false }

/-- 0xF5, set fade rate (R131). -/
def execMetaF5 (region : Byte) (s : State) : Host.Outcome State Fault Refusal :=
  s.initCall fun s => s.setG { s.g with fadeRatePending := region }

/-- 0xF6, commit fade rate (R132). -/
def execMetaF6 (_region : Byte) (s : State) : Host.Outcome State Fault Refusal :=
  s.initCall fun s => s.setG { s.g with fadeRate := s.g.fadeRatePending }

/-- 0xF7, start linear fade-out (R133). -/
def execMetaF7 (_region : Byte) (s : State) : Host.Outcome State Fault Refusal :=
  s.initCall fun s => s.setG { s.g with fadeCounter := s.g.fadeRate ++ 0#8, fadeActive := true, fadeComplete := false }

/-- A track 0xF8..0xFF: refused (R134, R139). -/
def execMetaUnknown (track region : Byte) (s : State) : Host.Outcome State Fault Refusal :=
  .next (s.unlessFaulted fun s => s.refuseCall (.init track region))

end Sys2Proof.Machine
end

