-- ==== Sys2Proof/Machine/ParamCmds.lean ====
section
/-! DEFINITION. The parameter commands (42_cmd_params.md). The voice setters are functions of a voice, shared with the SFX
layer (R116). -/

namespace Sys2Proof.Machine

/-! ## The setters of a voice -/

/-- VOL's setter (R85). -/
def Voice.setVolume (x : Voice) (a : Byte) : Voice := { x with volDuty := mergeVolume x.volDuty a }

/-- DUTY's setter (R91). -/
def Voice.setDuty (x : Voice) (a : Byte) : Voice := { x with volDuty := mergeDuty x.volDuty a }

/-- INST's setter: the pointer is written only if the number changed (R86). -/
def Voice.selectInstrument (x : Voice) (instrTable : Word) (a : Byte) : Voice :=
  let x :=
    if a = x.instrNumber then x
    else { x with instrNumber := a, instrPtr := instrTable + 8 * a.zeroExtend 16 }
  { x with reloadPending := true, hasInstr := true }

/-- DETUNE's setter (R89). -/
def Voice.setDetune (x : Voice) (a : Byte) : Voice := { x with detune := a }

/-- PORTA's setter: a zero magnitude clears portaActive (R90). -/
def Voice.setPorta (x : Voice) (a : Byte) : Voice :=
  { x with portaRate := a, portaActive := if portaMagnitude a = 0 then false else x.portaActive }

/-! ## The commands -/

/-- A two-byte command that rewrites the current channel's voice; the command loop goes on (R70). -/
def State.voiceCommand (s : State) (f : Voice → Voice) : State :=
  let s := s.advanceCursor s.cur 2
  s.setVoice s.cur (f (s.voice s.cur))

/-- A two-byte command that rewrites the current channel's sequencer; the command loop goes on (R70). -/
def State.seqCommand (s : State) (f : Seq → Seq) : State :=
  let s := s.advanceCursor s.cur 2
  s.setSeq s.cur (f (s.seq s.cur))

/-- TEMPO (R83). -/
def execTempo (w0 w1 : Byte) (s : State) : Host.Outcome State Fault Refusal :=
  let s := s.advanceCursor s.cur 3
  .next (s.setG { s.g with tempo := assemble s.cfg.wordOrder w0 w1, frac := 0 })

/-- GATE (R84). -/
def execGate (a : Byte) (s : State) : Host.Outcome State Fault Refusal :=
  .next (s.seqCommand fun q => { q with gate := a })

/-- VOL (R85). -/
def execVol (a : Byte) (s : State) : Host.Outcome State Fault Refusal :=
  .next (s.voiceCommand fun x => x.setVolume a)

/-- INST (R86). -/
def execInst (a : Byte) (s : State) : Host.Outcome State Fault Refusal :=
  .next (s.voiceCommand fun x => x.selectInstrument s.g.instrTable a)

/-- GTRANS (R87). -/
def execGtrans (a : Byte) (s : State) : Host.Outcome State Fault Refusal :=
  let s := s.advanceCursor s.cur 2
  .next (s.setG { s.g with gtrans := a })

/-- TRANS (R88). -/
def execTrans (a : Byte) (s : State) : Host.Outcome State Fault Refusal :=
  .next (s.seqCommand fun q => { q with ttrans := a })

/-- DETUNE (R89). -/
def execDetune (a : Byte) (s : State) : Host.Outcome State Fault Refusal :=
  .next (s.voiceCommand fun x => x.setDetune a)

/-- PORTA (R90). -/
def execPorta (a : Byte) (s : State) : Host.Outcome State Fault Refusal :=
  .next (s.voiceCommand fun x => x.setPorta a)

/-- DUTY (R91). -/
def execDuty (a : Byte) (s : State) : Host.Outcome State Fault Refusal :=
  .next (s.voiceCommand fun x => x.setDuty a)

end Sys2Proof.Machine
end

