-- ==== Sys2Proof/Machine/Dispatch.lean ====
section
/-! DEFINITION. One arm per instruction, each one direct call of its meaning. -/

namespace Sys2Proof.Machine

def exec (i : Instr) (s : State) : Host.Outcome State Fault Refusal :=
  match i with
  | .triplet => Sys2Proof.Machine.execTriplet s
  | .tie => Sys2Proof.Machine.execTie s
  | .dot => Sys2Proof.Machine.execDot s
  | .oct15va => Sys2Proof.Machine.execOct15va s
  | .flags a => Sys2Proof.Machine.execFlags a s
  | .tempo w0 w1 => Sys2Proof.Machine.execTempo w0 w1 s
  | .gate a => Sys2Proof.Machine.execGate a s
  | .vol a => Sys2Proof.Machine.execVol a s
  | .inst a => Sys2Proof.Machine.execInst a s
  | .oct a => Sys2Proof.Machine.execOct a s
  | .gtrans a => Sys2Proof.Machine.execGtrans a s
  | .trans a => Sys2Proof.Machine.execTrans a s
  | .detune a => Sys2Proof.Machine.execDetune a s
  | .porta a => Sys2Proof.Machine.execPorta a s
  | .loop0 a t0 t1 => Sys2Proof.Machine.execLoop0 a t0 t1 s
  | .loop1 a t0 t1 => Sys2Proof.Machine.execLoop1 a t0 t1 s
  | .loop2 a t0 t1 => Sys2Proof.Machine.execLoop2 a t0 t1 s
  | .loop3 a t0 t1 => Sys2Proof.Machine.execLoop3 a t0 t1 s
  | .break0 a t0 t1 => Sys2Proof.Machine.execBreak0 a t0 t1 s
  | .break1 a t0 t1 => Sys2Proof.Machine.execBreak1 a t0 t1 s
  | .break2 a t0 t1 => Sys2Proof.Machine.execBreak2 a t0 t1 s
  | .break3 a t0 t1 => Sys2Proof.Machine.execBreak3 a t0 t1 s
  | .jump t0 t1 => Sys2Proof.Machine.execJump t0 t1 s
  | .halt a => Sys2Proof.Machine.execHalt a s
  | .duty a => Sys2Proof.Machine.execDuty a s
  | .ill19 a => Sys2Proof.Machine.execIll19 a s
  | .ill1A1B low a => Sys2Proof.Machine.execIll1A1B low a s
  | .ill1C1F low a => Sys2Proof.Machine.execIll1C1F low a s
  | .rest k => Sys2Proof.Machine.execRest k s
  | .note k p => Sys2Proof.Machine.execNote k p s
  | .songInit track region => Sys2Proof.Machine.execSongInit track region s
  | .metaF0 region => Sys2Proof.Machine.execMetaF0 region s
  | .metaF1 region => Sys2Proof.Machine.execMetaF1 region s
  | .metaF2 region => Sys2Proof.Machine.execMetaF2 region s
  | .metaF3 region => Sys2Proof.Machine.execMetaF3 region s
  | .metaF4 region => Sys2Proof.Machine.execMetaF4 region s
  | .metaF5 region => Sys2Proof.Machine.execMetaF5 region s
  | .metaF6 region => Sys2Proof.Machine.execMetaF6 region s
  | .metaF7 region => Sys2Proof.Machine.execMetaF7 region s
  | .metaUnknown track region => Sys2Proof.Machine.execMetaUnknown track region s

end Sys2Proof.Machine
end

