-- ==== Sys2Proof/Machine/Pitch.lean ====
section
/-! DEFINITION. The pitch engine (45_pitch.md): LfoStep, PortamentoStep and PeriodWrite. -/

namespace Sys2Proof.Machine

/-- LfoStep on a voice with the record's LFO rate r; r = 0 disables, overflow toggles the polarity (R108). -/
def Voice.lfoStep (x : Voice) (r : Byte) : Voice :=
  if r = 0 then x
  else
    { x with
      lfoPhase := x.lfoPhase + r
      lfoPolarity := if x.lfoPhase.toNat + r.toNat ≥ 0x100 then !x.lfoPolarity else x.lfoPolarity }

/-- The end of a glide: all 16 bits of the table entry, portamento inactive (R109). -/
def Voice.snap (x : Voice) (target : Word) : Voice := { x with period := target, portaActive := false }

/-- PortamentoStep of a channel other than 0 toward the table entry `target`: the low 14 bits decide (R109). -/
def Voice.glideStep (x : Voice) (target : Word) : Voice :=
  if !x.portaActive then x
  else if low14 x.period = low14 target then x.snap target
  else if low14 target < low14 x.period then
    let p := x.period - portaStep x.portaRate
    if low14 p ≤ low14 target then x.snap target else { x with period := p }
  else
    let p := x.period + portaStep x.portaRate
    if low14 target ≤ low14 p then x.snap target else { x with period := p }

/-- PortamentoStep of channel 0: a continuous slide by the direction bit, never cleared here (R110). -/
def Voice.slideStep (x : Voice) : Voice :=
  if !x.portaActive then x
  else if portaUp x.portaRate then { x with period := x.period - portaStep x.portaRate }
  else { x with period := x.period + portaStep x.portaRate }

/-- out14 of a voice: the period with vibrato m by polarity, then detune (but on channel 0), modulo 0x4000 (R112). -/
def Voice.outPeriod (x : Voice) (c : Chan) (m : BitVec 14) : BitVec 14 :=
  let out : Int := if x.lfoPolarity then (x.period.toNat : Int) - m.toNat else x.period.toNat + m.toNat
  let out : Int := if c = .i0 then out else out + x.detune.toInt
  BitVec.ofInt 14 out

/-- LfoStep(c) (R108). -/
def State.lfoStep (s : State) (c : Chan) : State := s.setVoice c ((s.voice c).lfoStep (s.ir c 4))

/-- PortamentoStep(c) (R109, R110). -/
def State.portamentoStep (s : State) (c : Chan) : State :=
  s.setVoice c
    (if c = .i0 then (s.voice c).slideStep else (s.voice c).glideStep (periodEntry s.cfg (s.voice c).note))

/-- out14 of channel c (R112). -/
def State.outPeriod (s : State) (c : Chan) : BitVec 14 :=
  (s.voice c).outPeriod c (vibMag s.cfg.vibMag (s.voice c).lfoPhase (s.ir c 5))

/-- The REG_HI write of a period-high byte, unless the cache holds it already (R114). -/
def State.highWrite (s : State) (c : Chan) (hi : Byte) : State :=
  if hi = (s.voice c).hiCache then s
  else (s.regWrite (s.cfg.regHi.get c) hi).setVoice c { s.voice c with hiCache := hi }

/-- PeriodWrite(c): the REG_LO write, then the REG_HI write if the high byte changed (R114). -/
def State.periodWrite (s : State) (c : Chan) : State :=
  let out := s.outPeriod c
  (s.regWrite (s.cfg.regLo.get c) (out.extractLsb' 0 8)).highWrite c ((out.extractLsb' 8 6).zeroExtend 8)

end Sys2Proof.Machine
end

