-- ==== Sys2Proof/Machine/Sfx.lean ====
section
/-! DEFINITION. The SFX layer (46_sfx.md): SFX_STEP and SFX_START as the spec's reference version or as a free function of what
the layer may read, whose effect is applied so that the obligations of R119 hold whatever the function is (log entry 7). -/

namespace Sys2Proof.Machine

/-- What SFX_STEP and SFX_START are functions of: the state but for the sequencers, which they never read, and the ROM
(R117, R119 items 2 and the tempo's E, which they do not see). -/
structure SfxView where
  g : Global
  v : Quad Voice
  rom : Rom
  cfg : Cfg
  deriving DecidableEq, Repr

/-- The role of a write of the SFX layer (R119 item 1). -/
inductive SfxReg where
  | vol
  | lo
  | hi
  deriving DecidableEq, Repr, Inhabited

/-- A write of the SFX layer, to a register of a channel. -/
structure SfxWrite where
  chan : Chan
  reg : SfxReg
  value : Byte
  deriving DecidableEq, Repr, Inhabited

/-- What the SFX layer makes of a claimed voice: a Voice Reset or not (R34), the fields it may write, an instrument chosen
through the setter of R86 (R119 item 5). Its id, instrument pointer and period-high cache are not among the fields. -/
structure SfxVoice where
  restart : Bool
  phase : EnvPhase
  reloadPending : Bool
  portaActive : Bool
  lfoPolarity : Bool
  lfoPhase : Byte
  volDuty : Byte
  level : Byte
  detune : Byte
  portaRate : Byte
  note : Fin 96
  period : Word
  inst : Option Byte
  deriving DecidableEq, Repr, Inhabited

/-- The whole effect of an SFX_STEP: the layer's two global fields (R115), the claimed voices, the writes in order (R117), and
a byte it could not decode, if any (R119 item 6), which stands at the new SFX cursor. -/
structure SfxEffect where
  sfxCursor : Word
  override : Quad Bool
  voices : Quad SfxVoice
  writes : List SfxWrite
  corrupt : Option Chan
  deriving DecidableEq, Repr, Inhabited

/-- What an SFX_START may take from the event's bytes instead of its arguments (R118): the claim and the claimed voices' first
settings; and a byte it could not decode, if any (R119 item 6), at the event's address. It has no write and no cursor: R118
fixes both. -/
structure SfxStartEffect where
  claim : Quad Bool
  voices : Quad SfxVoice
  corrupt : Option Chan
  deriving DecidableEq, Repr, Inhabited

end Sys2Proof.Machine

namespace Sys2Proof

/-- The n-th free SFX_STEP: OPEN (R8, R117, D52; log entry 7). -/
opaque Config.freeSfxStep : Nat → Machine.SfxView → Machine.SfxEffect

/-- The n-th free SFX_START, of the event's address and the claimed channels: OPEN (R8, R118, D52; log entry 7). -/
opaque Config.freeSfxStart : Nat → Machine.SfxView → Word → Quad Bool → Machine.SfxStartEffect

end Sys2Proof

namespace Sys2Proof.Machine

/-- The place of a phase in the order of R24. -/
def EnvPhase.rank : EnvPhase → Nat
  | .attack => 0
  | .decay => 1
  | .sustain => 2
  | .release => 3
  | .idle => 4

/-- The part of the state an SFX function may read. -/
def State.sfxView (s : State) : SfxView := ⟨s.g, s.v, s.rom, s.cfg⟩

/-- Some channel of a set. -/
def anyChan (q : Quad Bool) : Bool := q.a0 || q.a1 || q.a2 || q.a3

/-- The override bits of an effect: all clear when it clears the SFX cursor (R119 item 3). -/
def SfxEffect.overrideBits (e : SfxEffect) : Quad Bool := if e.sfxCursor = 0 then Quad.fill false else e.override

/-- The fields an effect writes in a claimed voice, kept in the ranges the rules keep them in: the phase only goes forward
(R24), the level is at most 0xF0 (R102), a glide is active only with a nonzero magnitude (R75, R90; log entry 7, DEDUCED).
DESIGN CHOICE (log entry 17): within 0..0xF0 the level is free in every phase. R119 item 1 lets the layer write any field of a
claimed voice, and whether R102's one direction, or R103's Idle at volume 0, binds the layer's own writes is left open. -/
def Voice.sfxFields (x : Voice) (e : SfxVoice) : Voice :=
  { x with
    phase := if x.phase.rank ≤ e.phase.rank then e.phase else x.phase
    reloadPending := e.reloadPending
    portaActive := if portaMagnitude e.portaRate = 0 then false else e.portaActive
    lfoPolarity := e.lfoPolarity
    lfoPhase := e.lfoPhase
    volDuty := e.volDuty
    level := if e.level ≤ 0xF0#8 then e.level else 0xF0
    detune := e.detune
    portaRate := e.portaRate
    note := e.note
    period := e.period }

/-- The effect on the voice of channel c, if c is overridden afterwards (R119 items 1 and 5). -/
def State.sfxVoice (s : State) (c : Chan) (e : SfxVoice) : State :=
  if s.g.override.get c then
    let s := if e.restart then s.voiceReset c else s
    let x := (s.voice c).sfxFields e
    s.setVoice c (match e.inst with
      | some a => x.selectInstrument s.g.instrTable a
      | none => x)
  else s

/-- The four claimed voices set. -/
def State.sfxVoices (s : State) (e : Quad SfxVoice) : State :=
  (((s.sfxVoice .i0 (e.get .i0)).sfxVoice .i1 (e.get .i1)).sfxVoice .i2 (e.get .i2)).sfxVoice .i3 (e.get .i3)

/-- The address of a write's register (R41). -/
def SfxWrite.register (w : SfxWrite) (k : Cfg) : Word :=
  match w.reg with
  | .vol => k.regVol.get w.chan
  | .lo => k.regLo.get w.chan
  | .hi => k.regHi.get w.chan

/-- A write of the SFX layer: only to a channel overridden afterwards; a REG_HI write sets the cache (R119 items 1 and 4).
DESIGN CHOICE (log entry 18): the byte is free, bits 7:6 of a REG_HI write included. Whether R32 item 2, the mask of period values
to 14 bits, binds the layer's own writes is left open. -/
def State.sfxWrite (s : State) (w : SfxWrite) : State :=
  if s.g.override.get w.chan then
    let s := s.regWrite (w.register s.cfg) w.value
    match w.reg with
    | .vol | .lo => s
    | .hi => s.setVoice w.chan { s.voice w.chan with hiCache := w.value }
  else s

/-- The writes of the SFX layer, in order. -/
def State.sfxWrites (s : State) : List SfxWrite → State
  | [] => s
  | w :: ws => (s.sfxWrite w).sfxWrites ws

/-- An effect applied: cursor and override bits, the claimed voices, the writes (R119 items 1 to 5). -/
def State.sfxApply (s : State) (e : SfxEffect) : State :=
  ((s.setG { s.g with sfxCursor := e.sfxCursor, override := e.overrideBits }).sfxVoices e.voices).sfxWrites e.writes

/-- The fault of the layer on a channel, if it could not decode a byte: the shape of R136 with the SFX cursor's address
(R119 item 6). -/
def State.sfxFault (s : State) (corrupt : Option Chan) : State :=
  match corrupt with
  | some c => s.raiseCorrupt ⟨1, c, s.g.sfxCursor, s.memRead s.g.sfxCursor⟩
  | none => s

/-- SFX_STEP() (R117): the reference version changes nothing. A free version's fault comes after its effect (log entry 19). -/
def State.sfxStep (s : State) : State :=
  match s.cfg.sfxStep with
  | .reference => s
  | .free n =>
    let e := Config.freeSfxStep n s.sfxView
    (s.sfxApply e).sfxFault e.corrupt

/-- Voice Reset of every claimed channel (R118). -/
def State.resetClaimed (s : State) (claim : Quad Bool) : State :=
  let s := if claim.a0 then s.voiceReset .i0 else s
  let s := if claim.a1 then s.voiceReset .i1 else s
  let s := if claim.a2 then s.voiceReset .i2 else s
  if claim.a3 then s.voiceReset .i3 else s

/-- The minimal SFX_START of R118: a new event replaces the old, the claimed voices are reset. -/
def State.sfxClaim (s : State) (addr : Word) (claim : Quad Bool) : State :=
  (s.setG { s.g with override := claim, sfxCursor := addr }).resetClaimed claim

/-- SFX_START(addr, claim) (R118, R137, R139). A free version may take its claim and the claimed voices' first settings from
the event's bytes; the cursor, the Voice Reset of the claimed channels and the lack of any write are R118's (also R41, R148).
DESIGN CHOICE (log entry 19): the fault of a free version is raised after all of these. The spec gives no moment for it.
DESIGN CHOICE (log entry 20): a claim that the event's bytes leave empty is not refused; the event starts with no channel
overridden. R118 and R139 speak of the argument only. -/
def State.sfxStart (s : State) (addr : Word) (claim : Quad Bool) : State :=
  s.unlessFaulted fun s =>
    if addr = 0 ∨ anyChan claim = false then s.refuseCall (.sfxStart addr claim)
    else
      match s.cfg.sfxStart with
      | .reference => (s.sfxClaim addr claim).finishCall .ok
      | .free n =>
        let e := Config.freeSfxStart n s.sfxView addr claim
        (((s.sfxClaim addr e.claim).sfxVoices e.voices).finishCall .ok).sfxFault e.corrupt

end Sys2Proof.Machine
end

