-- ==== Sys2Proof/Machine/Scheduler.lean ====
section
/-! DEFINITION. The frame scheduler and the sequencer's entry (40_scheduler_sequencer.md sections 1 and 2): the parts of an
`advance()` call, one for each `Phase` but the command loop. -/

namespace Sys2Proof.Machine

/-- frac + tempo, an integer 0 .. 0x100FE (R64). -/
def Global.tempoSum (g : Global) : Nat := g.frac.toNat + g.tempo.toNat

/-- The elapsed ticks E = wrap8(s >> 8) (R64). -/
def Global.elapsedTicks (g : Global) : Byte := BitVec.ofNat 8 (g.tempoSum / 256)

/-- The carry of the tempo accumulator: frac <- s[7:0] (R64). -/
def Global.accumulate (g : Global) : Global := { g with frac := BitVec.ofNat 8 (g.tempoSum % 256) }

/-- FadeUpdate(E) on the globals: saturates at zero, marking the fade complete (R66). -/
def Global.fadeUpdate (g : Global) (e : Byte) : Global :=
  if g.fadeActive then
    if g.fadeCounter.toNat ≤ e.toNat then { g with fadeCounter := 0, fadeComplete := true }
    else { g with fadeCounter := g.fadeCounter - e.zeroExtend 16 }
  else g

/-- UpdateVoice(c): reload, LFO, envelope, volume write, portamento, period write (R67). -/
def State.updateVoice (s : State) (c : Chan) : State :=
  ((((((s.reloadIfPending c).lfoStep c).envelopeStep c).volumeWrite c).portamentoStep c).periodWrite c)

/-- Elapsed, after the SFX step of an `advance()`; the frame's first channel is 3 (R63, R64, R65). -/
def State.beginFrame (s : State) : State :=
  { s with g := s.g.accumulate, phase := .visit s.g.elapsedTicks .i3, result := none }

/-- The part of `advance()` before its channel loop (R63): a faulted call has no effect (R137), a suspended one is a no-op, an
SFX step that faults ends the call (R119 item 6). -/
def State.startAdvance (s : State) : State :=
  s.unlessFaulted fun s =>
    if s.g.suspend then s.finishCall .ok
    else
      let s := if s.g.sfxCursor = 0 then s else s.sfxStep
      if s.g.fault.isSome then s else s.beginFrame

/-- The countdowns of a sustaining note, which wrap (R69). -/
def State.countDown (s : State) (c : Chan) (e : Byte) : State :=
  s.setSeq c { s.seq c with duration := (s.seq c).duration - e, sustain := (s.seq c).sustain - e }

/-- A frame of a sustaining note before its expiry test: the update if an instrument is selected, the release test, the
countdowns (R69). -/
def State.sustainNote (s : State) (c : Chan) (e : Byte) : State :=
  let s := if (s.voice c).hasInstr then s.updateVoice c else s
  let s := if (s.seq c).sustain ≤ e then s.releaseTrigger c else s
  s.countDown c e

/-- Channel c enters its command loop (R69, R70). -/
def State.enterLoop (s : State) (e : Byte) (c : Chan) : State := { s with phase := .loop e c }

/-- Sequencer(c) up to its command loop (R68, R69). -/
def State.sequencer (s : State) (e : Byte) (c : Chan) : State :=
  if (s.seq c).cursor = 0 then s.leaveChannel
  else if (s.seq c).duration = 0 then s.enterLoop e c
  else if e < (s.seq c).duration then (s.sustainNote c e).leaveChannel
  else (s.sustainNote c e).enterLoop e c

/-- The visit of channel c in a frame (R65). -/
def State.visitChannel (s : State) (e : Byte) (c : Chan) : State :=
  if s.g.override.get c then (s.updateVoice c).leaveChannel
  else if s.g.mute then s.leaveChannel
  else s.sequencer e c

/-- The end of a frame: the fade update, and the call returns Ok (R63, R66, R123). -/
def State.finishFrame (s : State) (e : Byte) : State := (s.setG (s.g.fadeUpdate e)).finishCall .ok

end Sys2Proof.Machine
end

