-- ==== Sys2Proof/Machine/Control.lean ====
section
/-! DEFINITION. What one step does in each phase, and how an instruction is placed where the next step fetches. -/

namespace Sys2Proof.Machine

/-- The instruction at an address of the ROM (R13, R54 to R57). The bytes past the instruction's length do not matter, and
reading them has no effect (R38). -/
def State.instrAt (s : State) (a : Word) : Instr :=
  decode4 (s.memRead a) (s.memRead (a + 1)) (s.memRead (a + 2)) (s.memRead (a + 3))

/-- One pass of channel c's command loop (R70): the instruction at its cursor runs, its fetches included. -/
def State.runCommand (s : State) : Host.Outcome State Fault Refusal := exec (s.instrAt (s.seq s.cur).cursor) s

/-- The host's next call begins; with none to come the machine waits: nothing happens between host calls (R3, R141). -/
def State.startCall (s : State) : Host.Outcome State Fault Refusal :=
  match s.calls with
  | [] => .next s
  | .advance :: rest => .next { s with calls := rest }.startAdvance
  | .init track region :: rest => exec (decodeHost track region) { s with calls := rest }
  | .sfxStart addr claim :: rest => .next ({ s with calls := rest }.sfxStart addr claim)

/-- One step, by the phase (R63, R70). -/
def State.stepPhase (s : State) : Host.Outcome State Fault Refusal :=
  match s.phase with
  | .ready => s.startCall
  | .visit e c => .next (s.visitChannel e c)
  | .loop _ _ => s.runCommand
  | .fade e => .next (s.finishFrame e)

/-- A word of bytecode placed at the current channel's cursor, its four bytes at rising addresses, with that channel's
command loop running (log entry 14). -/
def State.placeBytecode (s : State) (nbits w : Nat) : State :=
  { s with
    rom := s.rom.placeAll (s.seq s.cur).cursor
      [tableByte nbits w 0, tableByte nbits w 1, tableByte nbits w 2, tableByte nbits w 3]
    phase := .loop s.elapsed s.cur }

/-- A row of format HOST placed as the host's next call (log entry 14). -/
def State.placeHostCall (s : State) (w : Nat) : State :=
  { s with phase := .ready, calls := .init (BitVec.ofNat 8 w) 0 :: s.calls }

/-- An instruction of the opcode table placed where the next step takes its instruction from. -/
def State.placeWord (s : State) (nbits w : Nat) : State :=
  if nbits = 0 then s.placeHostCall w else s.placeBytecode nbits w

end Sys2Proof.Machine
end

