-- ==== Sys2Proof/Safety.lean ====
section
/-! DEFINITION. The terms claims are stated in: the invariant of the machine, frames (what an instruction leaves unchanged),
idle states (R151), and the families of instructions a claim ranges over. -/

namespace Sys2Proof

/-- The bytes 0x19..0x1F (R96). -/
def Instr.isIllegal : Instr → Bool
  | .ill19 _ | .ill1A1B _ _ | .ill1C1F _ _ => true
  | _ => false

/-- Note and rest events (R59). -/
def Instr.isEvent : Instr → Bool
  | .rest _ | .note _ _ => true
  | _ => false

/-- LOOPk (R92). -/
def loopInstr (k : Level) (a t0 t1 : Byte) : Instr :=
  match k with
  | .i0 => .loop0 a t0 t1
  | .i1 => .loop1 a t0 t1
  | .i2 => .loop2 a t0 t1
  | .i3 => .loop3 a t0 t1

/-- BREAKk (R93). -/
def breakInstr (k : Level) (a t0 t1 : Byte) : Instr :=
  match k with
  | .i0 => .break0 a t0 t1
  | .i1 => .break1 a t0 t1
  | .i2 => .break2 a t0 t1
  | .i3 => .break3 a t0 t1

end Sys2Proof

namespace Sys2Proof.Machine

/-! ## The invariant -/

/-- What holds after power-on and is kept by every step. -/
structure State.Inv (s : State) : Prop where
  /-- The ROM image is in canonical form. -/
  rom : s.rom.wf = true
  /-- V[c].id = c (R20). -/
  ids : ∀ c, (s.voice c).id = c
  /-- V[c].instrPtr = wrap16(G.instrTable + 8 * V[c].instrNumber) (R33). -/
  instr : ∀ c, (s.voice c).instrPtr = s.g.instrTable + 8 * (s.voice c).instrNumber.zeroExtend 16
  /-- The level is in 0..0xF0 (R102). -/
  level : ∀ c, (s.voice c).level.toNat ≤ 0xF0
  /-- A glide is active only with a nonzero magnitude (R75, R90, the step 2..254 of R109). -/
  porta : ∀ c, (s.voice c).portaActive = true → portaMagnitude (s.voice c).portaRate ≠ 0
  /-- Bit 7 of every flag byte is 0 (R28). -/
  reserved : ∀ c, (s.seq c).flags.getLsbD 7 = false
  /-- A channel is overridden only while an SFX event is active (R119 item 3). -/
  claimed : ∀ c, s.g.override.get c = true → s.g.sfxCursor ≠ 0
  /-- A completed fade is still active and its countdown is 0 (R66, R133). -/
  fade : s.g.fadeComplete = true → s.g.fadeActive = true ∧ s.g.fadeCounter = 0
  /-- The fault record's code is 1 (R135). -/
  faultCode : ∀ r, s.g.fault = some r → r.code = 1
  /-- No frame is in progress in a faulted or suspended block (R63, R136). -/
  running : s.phase ≠ .ready → s.g.fault = none ∧ s.g.suspend = false
  /-- A command loop runs only unmuted and on a channel that is not overridden (R65, R95). -/
  looping : ∀ e c, s.phase = .loop e c → s.g.mute = false ∧ s.g.override.get c = false

/-! ## Frames -/

/-- What the block only reads: every byte of ROM reads as before, the parameters and the calls to come are as before. -/
def SameInputs (s t : State) : Prop := (∀ a, t.memRead a = s.memRead a) ∧ t.cfg = s.cfg ∧ t.calls = s.calls

/-- No write event, the call goes on, in the same phase. -/
def SameCall (s t : State) : Prop := t.trace = s.trace ∧ t.phase = s.phase ∧ t.result = s.result

/-- The cursor of channel c has moved by n bytes, modulo 65536. -/
def CursorMoved (c : Chan) (n : Nat) (s t : State) : Prop :=
  (t.seq c).cursor.toNat = ((s.seq c).cursor.toNat + n) % 65536

/-- Of the sequencers only channel c's may have changed. -/
def OnlySeq (c : Chan) (s t : State) : Prop := ∀ d, d ≠ c → t.seq d = s.seq d

/-- Of the voices only channel c's may have changed. -/
def OnlyVoice (c : Chan) (s t : State) : Prop := ∀ d, d ≠ c → t.voice d = s.voice d

/-- Of the sequencers only channel c's cursor has changed, by n bytes. -/
def OnlyCursor (c : Chan) (n : Nat) (s t : State) : Prop :=
  OnlySeq c s t ∧ CursorMoved c n s t ∧ t.seq c = { s.seq c with cursor := (t.seq c).cursor }

/-- The frame of a command that writes the sequencer of channel c: globals, voices, other sequencers, ROM, parameters, writes
and the call are unchanged. -/
def FrameSeq (c : Chan) (s t : State) : Prop :=
  SameInputs s t ∧ SameCall s t ∧ t.g = s.g ∧ t.v = s.v ∧ OnlySeq c s t

/-- The frame of a command of n bytes that writes the voice of channel c: all but that voice and c's cursor. -/
def FrameVoice (c : Chan) (n : Nat) (s t : State) : Prop :=
  SameInputs s t ∧ SameCall s t ∧ t.g = s.g ∧ OnlyVoice c s t ∧ OnlyCursor c n s t

/-- The frame of a command of n bytes on channel c that writes a global field: all but G and c's cursor. -/
def FrameGlobal (c : Chan) (n : Nat) (s t : State) : Prop :=
  SameInputs s t ∧ SameCall s t ∧ t.v = s.v ∧ OnlyCursor c n s t

/-- The frame of a host call: voices, sequencers and what the block reads are unchanged, the call is over. -/
def FrameHost (s t : State) (r : CallResult) : Prop :=
  SameInputs s t ∧ t.v = s.v ∧ t.q = s.q ∧ t.phase = .ready ∧ t.result = some r

/-- The state after an event on the channel in turn: the frame goes on with the next channel (R65, R70). -/
def LoopReturned (s t : State) : Prop :=
  ∀ e c, s.phase = .loop e c → t.phase = afterChannel e c

/-! ## Runs and idle states -/

/-- n steps (Host.Core.run on this machine). -/
def run (n : Nat) (s : State) : Host.Outcome State Fault Refusal := Host.Core.run Sys2Proof.core n s

/-- An idle state (R151): no SFX event, no override bit, and every cursor 0 or the mute set. -/
def State.Idle (s : State) : Prop :=
  s.g.sfxCursor = 0 ∧ (∀ c, s.g.override.get c = false) ∧ ((∀ c, (s.seq c).cursor = 0) ∨ s.g.mute = true)

/-- One pass through a LOOPk at one address: it runs, and the stream comes back to it (R92). -/
def loopPass (k : Level) (a t0 t1 : Byte) (s : State) : State :=
  match exec (loopInstr k a t0 t1) s with
  | .next t => t.setCursor s.cur (s.seq s.cur).cursor
  | .fault _ | .refused _ => s

end Sys2Proof.Machine
end

