-- ==== Sys2Proof/Certificates/Slice0/Obligations.lean ====
section
/-! DEFINITION. The statements for the provers, from the numbered rules of spec/. -/

open Sys2Proof Sys2Proof.Machine

/-! ## Encoding (30_encoding.md) -/

/-- Decoding the encoding of any well-formed instruction gives it back, whatever bytes follow (R56, R58, R59, R124). -/
def Obligations.EncodedInstructionDecodesToItself : Prop :=
  ∀ i : Instr, i.wellFormed = true →
    match encode i with
    | .bytecode bs => ∀ rest, decode (bs ++ rest) = .ok (i, rest)
    | .initCall track region => decodeHost track region = i

/-- What the decoder reads is well-formed and its encoding is exactly the bytes read: no two readings of the same bytes and no
bit dropped (R54, R56). The same of the host's init arguments (R124). -/
def Obligations.DecodedBytesAreTheEncoding : Prop :=
  (∀ bs i rest, decode bs = .ok (i, rest) →
    i.wellFormed = true ∧ i.isBytecode = true ∧ ∃ pre, encode i = .bytecode pre ∧ bs = pre ++ rest) ∧
  (∀ track region, (decodeHost track region).wellFormed = true ∧
    encode (decodeHost track region) = .initCall track region)

/-- R54: every first byte has exactly one meaning, a command 0x00..0x18, an illegal byte 0x19..0x1F or an event 0x20..0xFF;
the instruction's length depends on it alone. -/
def Obligations.FirstByteHasOneMeaning : Prop :=
  ∀ b b1 b2 b3 rest, ∃ i,
    decode (b :: b1 :: b2 :: b3 :: rest) =
      .ok (i, (b1 :: b2 :: b3 :: rest).drop
        (if 0x20 ≤ b.toNat ∨ b.toNat ≤ 3 then 0
          else if b.toNat = 0x05 ∨ b.toNat = 0x16 then 2
          else if 0x0E ≤ b.toNat ∧ b.toNat ≤ 0x15 then 3
          else 1)) ∧
    i.isBytecode = true ∧
    (i.isIllegal = true ↔ 0x19 ≤ b.toNat ∧ b.toNat ≤ 0x1F) ∧
    (i.isEvent = true ↔ 0x20 ≤ b.toNat)

/-- Words of R59 and of the opcode table decode to the instructions they stand for. -/
def Obligations.OpcodeMapWordsDecode : Prop :=
  decodeTableWord 8 0x00 = some .triplet ∧
  decodeTableWord 16 0x0A04 = some (.flags 0x0A) ∧
  decodeTableWord 24 0x800105 = some (.tempo 0x01 0x80) ∧
  decodeTableWord 32 0x3412030E = some (.loop0 0x03 0x12 0x34) ∧
  decodeTableWord 32 0x00900213 = some (.break1 0x02 0x90 0x00) ∧
  decodeTableWord 8 0x1E = some (.ill1C1F 2 0) ∧
  decodeTableWord 8 0x61 = some (.note 2 1) ∧
  decodeTableWord 8 0xE0 = some (.rest 6) ∧
  decodeTableWord 0 0xF5 = some (.metaF5 0)

/-! ## The step -/

/-- R70: in a command loop the step runs the instruction that the four bytes at the channel's cursor decode to, and does
nothing around it. -/
def Obligations.StepRunsFetchedInstruction : Prop :=
  ∀ (s : State) (e : Byte) (c : Chan) (i : Instr) (rest : List Byte),
    s.phase = .loop e c →
    decode [s.memRead (s.seq c).cursor, s.memRead ((s.seq c).cursor + 1), s.memRead ((s.seq c).cursor + 2),
      s.memRead ((s.seq c).cursor + 3)] = .ok (i, rest) →
    step s = exec i s ∧ s.cur = c

/-- R124: when no call is in progress and the host's next call is init(track, region), the step takes the call and runs the
instruction of its track. -/
def Obligations.InitCallRunsItsTrack : Prop :=
  ∀ (s : State) (track region : Byte) (rest : List HostCall),
    s.phase = .ready → s.calls = .init track region :: rest →
    ∃ i, step s = exec i { s with calls := rest } ∧
      (track.toNat ≤ 0xEF → i = .songInit track region) ∧
      (track.toNat = 0xF0 → i = .metaF0 region) ∧
      (track.toNat = 0xF1 → i = .metaF1 region) ∧
      (track.toNat = 0xF2 → i = .metaF2 region) ∧
      (track.toNat = 0xF3 → i = .metaF3 region) ∧
      (track.toNat = 0xF4 → i = .metaF4 region) ∧
      (track.toNat = 0xF5 → i = .metaF5 region) ∧
      (track.toNat = 0xF6 → i = .metaF6 region) ∧
      (track.toNat = 0xF7 → i = .metaF7 region) ∧
      (0xF8 ≤ track.toNat → i = .metaUnknown track region)

/-- No step of the machine stops: every byte and every call has a meaning (R54, R135, R139), and with no call to come the
machine waits (log entry 1). -/
def Obligations.EveryStepAnswersANextState : Prop :=
  (∀ s : State, ∃ t, step s = .next t) ∧
  (∀ s : State, s.phase = .ready → s.calls = [] → step s = .next s)

/-! ## Invariants and whole-machine rules -/

/-- Every step keeps the invariant, whatever the SFX layer is (R20, R28, R33, R102, R119 and the model's own clauses). -/
def Obligations.StepKeepsInvariant : Prop :=
  ∀ s t : State, s.Inv → step s = .next t → t.Inv

/-- The power-on state meets the invariant. -/
def Obligations.ResetMeetsInvariant : Prop := State.reset.Inv

/-- The values R36 gives the power-on state, from which an advance() emits nothing. -/
def Obligations.ResetHoldsTheSpecsValues : Prop :=
  State.reset.g =
    { suspend := false, mute := false, tempo := 0, frac := 0, gtrans := 0, sfxCursor := 0,
      override := ⟨false, false, false, false⟩, instrTable := 0, fadeCounter := 0, fadeActive := false,
      fadeComplete := false, fadeRatePending := 0, fadeRate := 0, fault := none, refused := none } ∧
  (∀ c, State.reset.voice c =
    { id := c, instrNumber := 0, instrPtr := 0, hasInstr := false, phase := .idle, reloadPending := false,
      portaActive := false, lfoPolarity := false, lfoPhase := 0, volDuty := 0, level := 0, detune := 0, portaRate := 0,
      note := 0, period := 0, hiCache := 0xFF }) ∧
  (∀ c, State.reset.seq c =
    { cursor := 0, flags := 0, ttrans := 0, duration := 0, gate := 0, sustain := 0, loop := ⟨0, 0, 0, 0⟩,
      tiedIn := false }) ∧
  State.reset.trace = [] ∧
  ∃ t, run 6 { State.reset with calls := [.advance] } = .next t ∧ t.phase = .ready ∧ t.result = some .ok ∧ t.trace = []

/-- R38: ROM is a fixed function for the whole run (and so are the parameters, R18). -/
def Obligations.RomAndParametersNeverChange : Prop :=
  ∀ (n : Nat) (s t : State), run n s = .next t → t.rom = s.rom ∧ t.cfg = s.cfg ∧ ∀ a, t.memRead a = s.memRead a

/-- R49: write events are only ever appended to the trace. -/
def Obligations.TraceOnlyGrows : Prop :=
  ∀ (n : Nat) (s t : State), run n s = .next t → ∃ ws, t.trace = s.trace ++ ws

/-- R142: bytecode cannot reach G.suspend, G.mute, the SFX state or the fade state (nor the instrument table and the refusal
mark, R22), nor any other channel's voice or sequencer. -/
def Obligations.BytecodeCannotReachHostState : Prop :=
  ∀ (i : Instr) (s t : State), i.isBytecode = true → exec i s = .next t →
    t.g.suspend = s.g.suspend ∧ t.g.mute = s.g.mute ∧ t.g.sfxCursor = s.g.sfxCursor ∧ t.g.override = s.g.override ∧
    t.g.fadeCounter = s.g.fadeCounter ∧ t.g.fadeActive = s.g.fadeActive ∧ t.g.fadeComplete = s.g.fadeComplete ∧
    t.g.fadeRatePending = s.g.fadeRatePending ∧ t.g.fadeRate = s.g.fadeRate ∧ t.g.instrTable = s.g.instrTable ∧
    t.g.refused = s.g.refused ∧ OnlySeq s.cur s t ∧ OnlyVoice s.cur s t ∧ SameInputs s t

/-- R24: in every step of the machine a voice's envelope phase stays or goes forward, except where a pending reload is done. -/
def Obligations.EnvelopePhaseOnlyAdvances : Prop :=
  ∀ (s t : State) (c : Chan), step s = .next t →
    (s.voice c).phase.rank ≤ (t.voice c).phase.rank ∨
      ((s.voice c).reloadPending = true ∧ (t.voice c).reloadPending = false)

/-- R119 item 2, R32 item 4: while a channel is overridden, no step of an advance() moves any field of its sequencer, whatever
the SFX layer is; and with the reference SFX_STEP, which never hands a channel back, no number of steps of advance() calls
does. -/
def Obligations.ClaimedChannelIsHeld : Prop :=
  (∀ (s t : State) (c : Chan), s.Inv → s.g.override.get c = true →
    (s.phase = .ready → ∃ rest, s.calls = .advance :: rest) → step s = .next t → t.seq c = s.seq c) ∧
  (∀ (n : Nat) (s t : State) (c : Chan), s.Inv → s.cfg.sfxStep = .reference → s.g.override.get c = true →
    (∀ k ∈ s.calls, k = HostCall.advance) → run n s = .next t →
    t.seq c = s.seq c ∧ t.g.override.get c = true)

/-- R137: a faulted block is quiescent for ever: any number of steps, taking any host calls, writes nothing, changes no state,
and a call returns Faulted(G.fault). -/
def Obligations.FaultedBlockIsQuiescent : Prop :=
  ∀ (s : State) (info : CorruptSequence), s.Inv → s.g.fault = some info →
    (∀ n, ∃ t, run n s = .next t ∧ t.g = s.g ∧ t.v = s.v ∧ t.q = s.q ∧ t.rom = s.rom ∧ t.trace = s.trace ∧
      t.calls = s.calls.drop n ∧
      t.result = if n = 0 ∨ s.calls = [] then s.result else some (.faulted info))

/-- R135, R136 with the reference SFX layer: a fault is raised only by a byte 0x19..0x1F that a command loop fetches, and it
records the channel, the byte's address and the byte, ends the call and writes nothing. -/
def Obligations.OnlyIllegalBytesRaise : Prop :=
  ∀ (s t : State) (r : CorruptSequence), s.cfg.sfxStep = .reference → s.cfg.sfxStart = .reference →
    s.g.fault = none → step s = .next t → t.g.fault = some r →
    ∃ e, s.phase = .loop e r.channel ∧ r.addr = (s.seq r.channel).cursor ∧ r.byte = s.memRead r.addr ∧
      0x19 ≤ r.byte.toNat ∧ r.byte.toNat ≤ 0x1F ∧ r.code = 1 ∧
      t.phase = .ready ∧ t.result = some (.faulted r) ∧ t.trace = s.trace

/-- R152: JUMP to its own address, and a loop-end with N = 1 that targets itself, never return: every number of steps leaves
the machine where it is. -/
def Obligations.SelfJumpNeverReturns : Prop :=
  ∀ (n : Nat) (s : State) (e : Byte) (c : Chan), s.phase = .loop e c →
    ((∃ t0 t1, s.instrAt (s.seq c).cursor = .jump t0 t1 ∧
        assemble s.cfg.wordOrder t0 t1 = (s.seq c).cursor) ∨
      (∃ k t0 t1, s.instrAt (s.seq c).cursor = loopInstr k 1 t0 t1 ∧ s.cfg.loopEndRule = .expiryJump ∧
        (s.seq c).loop.get k = 0 ∧ assemble s.cfg.wordOrder t0 t1 = (s.seq c).cursor)) →
    run n s = .next s

/-! ## The frame scheduler and the sequencer (40_scheduler_sequencer.md) -/

/-- R64: an advance() that begins a frame splits frac + tempo into E and the new fraction, and visits channel 3 first. -/
def Obligations.AdvanceYieldsElapsedTicks : Prop :=
  ∀ (s : State) (rest : List HostCall), s.phase = .ready → s.calls = .advance :: rest → s.g.fault = none →
    s.g.suspend = false → (s.g.sfxCursor = 0 ∨ s.cfg.sfxStep = .reference) →
    ∃ t e, step s = .next t ∧ t.phase = .visit e .i3 ∧
      e.toNat = (s.g.frac.toNat + s.g.tempo.toNat) / 256 % 256 ∧
      t.g = { s.g with frac := t.g.frac } ∧
      t.g.frac.toNat = (s.g.frac.toNat + s.g.tempo.toNat) % 256 ∧
      t.v = s.v ∧ t.q = s.q ∧ t.rom = s.rom ∧ t.cfg = s.cfg ∧ t.calls = rest ∧ t.trace = s.trace

/-- R65, R120: the visit of a channel, in the order 3, 2, 1, 0: an overridden channel gets its voice update whatever the mute
and the instrument mark, and its sequencer is untouched; one that is not overridden does nothing when muted or halted (R68).
That a visit is a step is log entry 2. -/
def Obligations.ChannelVisitsInOrder : Prop :=
  ∀ (s : State) (e : Byte) (c : Chan), s.phase = .visit e c →
    let next : Phase := match c with | .i3 => .visit e .i2 | .i2 => .visit e .i1 | .i1 => .visit e .i0 | .i0 => .fade e
    ∃ t, step s = .next t ∧
      (s.g.override.get c = true →
        t = { s.updateVoice c with phase := next } ∧
        t.q = s.q ∧ t.g = s.g ∧ OnlyVoice c s t ∧ SameInputs s t ∧
        ∃ vol lo hi, t.trace = s.trace ++ [⟨s.cfg.regVol.get c, vol⟩, ⟨s.cfg.regLo.get c, lo⟩] ++
          (if hi = (s.voice c).hiCache then [] else [⟨s.cfg.regHi.get c, hi⟩])) ∧
      (s.g.override.get c = false → (s.g.mute = true ∨ (s.seq c).cursor = 0) → t = { s with phase := next })

/-- R68, R69: a frame of the sequencer. On a halted channel it does nothing. On one that is not halted, with no note sounding
it enters the command loop at once; with one it updates the voice if an instrument is selected, triggers release if the
sustain countdown is at most E, subtracts E from both countdowns modulo 256, and goes on to the command loop exactly when the
duration was at most E. -/
def Obligations.SustainingNoteCountsDown : Prop :=
  ∀ (s : State) (e : Byte) (c : Chan), s.phase = .visit e c → s.g.override.get c = false → s.g.mute = false →
    ∃ t, step s = .next t ∧
      ((s.seq c).cursor = 0 → t = { s with phase := afterChannel e c }) ∧
      ((s.seq c).cursor ≠ 0 → (s.seq c).duration = 0 → t = { s with phase := .loop e c }) ∧
      ((s.seq c).cursor ≠ 0 → (s.seq c).duration ≠ 0 →
        (t.seq c).duration.toNat = ((s.seq c).duration.toNat + 256 - e.toNat) % 256 ∧
        (t.seq c).sustain.toNat = ((s.seq c).sustain.toNat + 256 - e.toNat) % 256 ∧
        t.seq c = { s.seq c with duration := (t.seq c).duration, sustain := (t.seq c).sustain } ∧
        OnlySeq c s t ∧ OnlyVoice c s t ∧ t.g = s.g ∧ SameInputs s t ∧
        t.phase = (if e.toNat < (s.seq c).duration.toNat then afterChannel e c else .loop e c) ∧
        t.trace = (if (s.voice c).hasInstr then (s.updateVoice c).trace else s.trace) ∧
        (let x := if (s.voice c).hasInstr then (s.updateVoice c).voice c else s.voice c
         t.voice c =
          if (s.seq c).sustain.toNat ≤ e.toNat then
            { x with phase := if x.phase = .idle then .idle else .release }
          else x))

/-- R66: the fade countdown falls by E, saturating at zero, and the fade is complete once it reaches zero; the call returns
Ok. -/
def Obligations.FadeCountdownSaturates : Prop :=
  ∀ (s : State) (e : Byte), s.phase = .fade e →
    ∃ t, step s = .next t ∧ FrameHost s t .ok ∧ t.trace = s.trace ∧
      (s.g.fadeActive = false → t.g = s.g) ∧
      (s.g.fadeActive = true →
        t.g.fadeCounter.toNat = s.g.fadeCounter.toNat - e.toNat ∧
        (t.g.fadeComplete = true ↔ s.g.fadeComplete = true ∨ s.g.fadeCounter.toNat ≤ e.toNat) ∧
        t.g = { s.g with fadeCounter := t.g.fadeCounter, fadeComplete := t.g.fadeComplete })

/-- R67, R103, R114: a voice update is a pending reload, the LFO step, the envelope step, the volume write, the portamento step
and the period write, in this order: each engine's fields are those its step leaves when it runs on what the steps before it
left. It emits one volume write, one period-low write, and a period-high write exactly when the high byte of the 14-bit output
period differs from the cached one, which it then becomes; nothing but the voice and the trace changes. -/
def Obligations.VoiceUpdateWrites : Prop :=
  ∀ (s : State) (c : Chan), ∃ lo hi : Byte,
    let t := s.updateVoice c
    let reloaded := s.reloadIfPending c
    let swept := reloaded.lfoStep c
    let stepped := swept.envelopeStep c
    let written := stepped.volumeWrite c
    let glided := written.portamentoStep c
    t = glided.periodWrite c ∧
    t.voice c = { s.voice c with
      reloadPending := (reloaded.voice c).reloadPending, volDuty := (reloaded.voice c).volDuty
      lfoPhase := (swept.voice c).lfoPhase, lfoPolarity := (swept.voice c).lfoPolarity
      phase := (stepped.voice c).phase, level := (stepped.voice c).level
      period := (glided.voice c).period, portaActive := (glided.voice c).portaActive
      hiCache := hi } ∧
    written = { stepped with trace := s.trace ++
      [⟨s.cfg.regVol.get c, stepped.volumeValue c (stepped.outputVolume c)⟩] } ∧
    lo.toNat = (glided.outPeriod c).toNat % 256 ∧ hi.toNat = (glided.outPeriod c).toNat / 256 ∧
    t.trace = s.trace ++ [⟨s.cfg.regVol.get c, t.volumeValue c (t.outputVolume c)⟩, ⟨s.cfg.regLo.get c, lo⟩] ++
      (if hi = (s.voice c).hiCache then [] else [⟨s.cfg.regHi.get c, hi⟩]) ∧
    t.outPeriod c = glided.outPeriod c ∧
    t = { s with v := s.v.set c (t.voice c), trace := t.trace }

/-- R151: from an idle state a whole advance() emits no write and changes no field except G.frac and the fade fields; a
suspended one changes nothing at all. -/
def Obligations.IdleFrameIsSilent : Prop :=
  ∀ (s : State) (rest : List HostCall), s.Idle → s.phase = .ready → s.calls = .advance :: rest → s.g.fault = none →
    (s.g.suspend = false → ∃ t, run 6 s = .next t ∧
      t = { s with
        calls := rest, result := some .ok,
        g := { s.g with frac := t.g.frac, fadeCounter := t.g.fadeCounter, fadeComplete := t.g.fadeComplete } }) ∧
    (s.g.suspend = true → run 1 s = .next { s with calls := rest, result := some .ok })

/-! ## The envelope and volume engine (44_envelope.md) -/

/-- R100 in integers: the envelope step of each phase, with the deltas of RATE_TABLE (R98). -/
def Obligations.EnvelopeStepByPhase : Prop :=
  ∀ (s : State) (c : Chan),
    let RATE : Byte → Nat := fun r =>
      [0, 1, 2, 3, 4, 5, 6, 7, 8, 9, 10, 11, 12, 14, 15, 16, 18, 19, 20, 22, 24, 27, 30, 35, 40, 48, 60, 80, 126, 127,
        254, 255].getD (r.toNat % 32) 0
    let x := s.voice c
    let y := (s.envelopeStep c).voice c
    let L := x.level.toNat
    s.envelopeStep c = { s with v := s.v.set c y } ∧ y = { x with level := y.level, phase := y.phase } ∧
    (x.phase = .attack → if L + RATE (s.ir c 0) ≥ 0xF0 then y.level.toNat = 0xF0 ∧ y.phase = .decay
      else y.level.toNat = L + RATE (s.ir c 0) ∧ y.phase = .attack) ∧
    (x.phase = .decay → if RATE (s.ir c 1) = 0 then y = x
      else if (L : Int) - RATE (s.ir c 1) ≤ (s.ir c 2).toNat then y.level.toNat = min L (s.ir c 2).toNat ∧ y.phase = .sustain
      else y.level.toNat = L - RATE (s.ir c 1) ∧ y.phase = .decay) ∧
    (x.phase = .sustain → y = x) ∧
    (x.phase = .release → if s.cfg.chKind.get c = .triangle then y.level = 0 ∧ y.phase = .idle
      else if RATE (s.ir c 3) = 0 then y = x
      else if L ≤ RATE (s.ir c 3) then y.level = 0 ∧ y.phase = .idle
      else y.level.toNat = L - RATE (s.ir c 3) ∧ y.phase = .release) ∧
    (x.phase = .idle → y = x)

/-- R102: the level moves in one direction in each phase, for every record and rate, and never leaves 0..0xF0. -/
def Obligations.LevelMovesOneWay : Prop :=
  ∀ (s : State) (c : Chan), (s.voice c).level.toNat ≤ 0xF0 →
    let x := s.voice c
    let y := (s.envelopeStep c).voice c
    y.level.toNat ≤ 0xF0 ∧
    (x.phase = .attack → x.level.toNat ≤ y.level.toNat) ∧
    (x.phase = .decay ∨ x.phase = .release → y.level.toNat ≤ x.level.toNat) ∧
    (x.phase = .sustain ∨ x.phase = .idle → y.level = x.level)

/-- R98: RATE uses the low 5 bits of a rate byte, and is 0 exactly when they are 0. -/
def Obligations.RateUsesTheLowFiveBits : Prop :=
  ∀ r : Byte, rate r = rate (r &&& 0x1F) ∧ (rate r = 0 ↔ r &&& 0x1F = 0)

/-- R99: a pending reload restarts the envelope at Attack with the record's duty bits, keeping the level and the LFO. R101:
the release trigger moves Attack, Decay and Sustain to Release and nothing else. -/
def Obligations.ReloadAndReleaseTrigger : Prop :=
  ∀ (s : State) (c : Chan),
    (let y := (s.reloadIfPending c).voice c
     if (s.voice c).reloadPending then
       y = { s.voice c with reloadPending := false, phase := .attack, volDuty := y.volDuty } ∧
       (∀ j, j < 8 → y.volDuty.getLsbD j = if 6 ≤ j then (s.ir c 7).getLsbD j else (s.voice c).volDuty.getLsbD j)
     else y = s.voice c) ∧
    s.reloadIfPending c = { s with v := s.v.set c ((s.reloadIfPending c).voice c) } ∧
    s.releaseTrigger c = { s with v := s.v.set c { s.voice c with phase :=
      if (s.voice c).phase = .idle then .idle else .release } }

/-- R104, R105, R106, R107, R113: the OPEN functions meet their obligations whatever they are, and tremolo and fade never raise
a volume. -/
def Obligations.ParameterFunctionsKeepTheirBounds : Prop :=
  ∀ (f : FnChoice) (v : Nibble) (ph d : Byte) (pol : Bool) (w : Word),
    volCombine f 0 v = 0 ∧ (tremolo f v ph pol d).toNat ≤ v.toNat ∧ (fadeVolume v w).toNat ≤ v.toNat ∧
    triValue f 0 = 0 ∧ vibMag f ph 0 = 0

/-- R103, R106: a voice whose envelope's four significant bits are 0, or a faded channel once the countdown's high byte is 0,
writes volume 0: {volDuty[7:4], 0}, and 0x00 on the triangle-kind channel. -/
def Obligations.SilentVoiceWritesVolumeZero : Prop :=
  ∀ (s : State) (c : Chan),
    ((s.voice c).level.toNat < 16 ∨
      (s.g.fadeActive = true ∧ s.cfg.fadeChannels.get c = true ∧ s.g.fadeCounter.toNat < 256)) →
    ∃ b : Byte, s.volumeWrite c = { s with trace := s.trace ++ [⟨s.cfg.regVol.get c, b⟩] } ∧
      b.toNat = if s.cfg.chKind.get c = .triangle then 0 else (s.voice c).volDuty.toNat / 16 * 16

/-! ## The pitch engine (45_pitch.md) -/

/-- R108: the LFO phase accumulates the record's rate modulo 256, and the polarity toggles exactly on overflow. -/
def Obligations.LfoAccumulatesItsRate : Prop :=
  ∀ (s : State) (c : Chan),
    let x := s.voice c
    let y := (s.lfoStep c).voice c
    s.lfoStep c = { s with v := s.v.set c y } ∧
    y = { x with lfoPhase := y.lfoPhase, lfoPolarity := y.lfoPolarity } ∧
    x.lfoPhase.toNat + (s.ir c 4).toNat = y.lfoPhase.toNat + (if y.lfoPolarity = x.lfoPolarity then 0 else 256)

/-- R109, R163: the portamento step of channels 1 to 3. Inactive, it changes nothing. Active, with the low 14 bits equal to the
target's it snaps to the table entry, all 16 bits of it, and stops; above the target it subtracts the step 2 * magnitude modulo
65536, below it it adds it, and snaps and stops exactly when the new low 14 bits are at or past the target, also after a wrap.
R111: a glide that does not wrap reaches the table entry and stops, within ceil(|t - p| / step) + 1 updates. -/
def Obligations.GlideReachesItsTarget : Prop :=
  (∀ (s : State) (c : Chan), c ≠ .i0 →
    let x := s.voice c
    let y := (s.portamentoStep c).voice c
    let entry := periodEntry s.cfg x.note
    let p := x.period.toNat % 0x4000
    let t := entry.toNat % 0x4000
    let d := 2 * (x.portaRate.toNat % 128)
    let down := (x.period.toNat + 65536 - d) % 65536
    let up := (x.period.toNat + d) % 65536
    let snapped : Voice := { x with period := entry, portaActive := false }
    s.portamentoStep c = { s with v := s.v.set c y } ∧
    (x.portaActive = false → y = x) ∧
    (x.portaActive = true → p = t → y = snapped) ∧
    (x.portaActive = true → t < p →
      y = if down % 0x4000 ≤ t then snapped else { x with period := BitVec.ofNat 16 down }) ∧
    (x.portaActive = true → p < t →
      y = if t ≤ up % 0x4000 then snapped else { x with period := BitVec.ofNat 16 up })) ∧
  (∀ (s : State) (c : Chan) (m : Nat),
    let p := (s.voice c).period.toNat % 0x4000
    let t := (periodEntry s.cfg (s.voice c).note).toNat % 0x4000
    let d := 2 * (portaMagnitude (s.voice c).portaRate).toNat
    let n := ((max p t - min p t) + d - 1) / d
    c ≠ .i0 → (s.voice c).portaActive = true → d ≠ 0 → (t < p → n * d ≤ p) → (p < t → p + n * d < 0x4000) →
    n + 1 ≤ m →
    ((fun u => State.portamentoStep u c)^[m] s).voice c =
      { s.voice c with period := periodEntry s.cfg (s.voice c).note, portaActive := false })

/-- R110: on channel 0 an active portamento slides by its step every update, in the direction of portaRate[7], never consults
the target and never clears portaActive. -/
def Obligations.ChannelZeroSlidesForEver : Prop :=
  ∀ (s : State) (m : Nat), (s.voice .i0).portaActive = true →
    let d : Int := 2 * (portaMagnitude (s.voice .i0).portaRate).toNat
    ((fun u => State.portamentoStep u .i0)^[m] s).voice .i0 =
      { s.voice .i0 with
        period := BitVec.ofInt 16 ((s.voice .i0).period.toNat +
          (if (s.voice .i0).portaRate.getLsbD 7 then -(m * d) else m * d)) }

/-- R112: the output period is the period, plus or minus the vibrato by the polarity, plus the signed detune except on channel
0, modulo 0x4000; the period write leaves the stored period as it is. R113: the reference vibrato magnitude. -/
def Obligations.OutputPeriodIsVibratoAndDetune : Prop :=
  (∀ (s : State) (c : Chan),
    let x := s.voice c
    let m : Int := (vibMag s.cfg.vibMag x.lfoPhase (s.ir c 5)).toNat
    ((s.outPeriod c).toNat : Int) =
      (x.period.toNat + (if x.lfoPolarity then -m else m) + (if c = .i0 then 0 else x.detune.toInt)) % 0x4000 ∧
    (s.periodWrite c).voice c = { x with hiCache := ((s.periodWrite c).voice c).hiCache }) ∧
  (∀ ph d : Byte, (vibMag .reference ph d).toNat = ph.toNat * d.toNat / 256)

/-! ## Note and rest events (40_scheduler_sequencer.md) -/

/-- R58, R71, R72: REST, the byte with k + 1 in bits 7:5 and 0 in bits 4:0, adds its length, with the dot extension consumed,
to the duration countdown, triggers release, sets the sustain sentinel and ends the tie; it writes nothing and the loop
returns. -/
def Obligations.RestReleasesAndWaits : Prop :=
  ∀ (k : Fin 7) (s : State),
    let q := s.seq s.cur
    let d0 := (if q.flags.getLsbD 0 then s.cfg.noteLenTriplet[k] else s.cfg.noteLen[k]).toNat
    let d := if q.flags.getLsbD 2 then (d0 + d0 / 2) % 256 else d0
    encode (.rest k) = .bytecode [BitVec.ofNat 8 (32 * (k.val + 1))] ∧
    ∃ t, exec (.rest k) s = .next t ∧ SameInputs s t ∧ t.g = s.g ∧ t.trace = s.trace ∧ t.result = s.result ∧
      LoopReturned s t ∧ OnlySeq s.cur s t ∧ CursorMoved s.cur 1 s t ∧
      (t.seq s.cur).duration.toNat = (q.duration.toNat + d) % 256 ∧
      (∀ j, j < 8 → (t.seq s.cur).flags.getLsbD j = (decide (j ≠ 2) && q.flags.getLsbD j)) ∧
      t.seq s.cur = { q with cursor := (t.seq s.cur).cursor, duration := (t.seq s.cur).duration,
                             flags := (t.seq s.cur).flags, sustain := 0xFF, tiedIn := false } ∧
      t.v = s.v.set s.cur { s.voice s.cur with
        phase := if (s.voice s.cur).phase = .idle then .idle else .release }

/-- R58, R71, R73, R76: NOTE, the byte with k + 1 in bits 7:5 and the pitch in bits 4:0, adds its length, with the dot
extension consumed, to the duration countdown; its sustain is the gate formula, at least 1, and 0xFF when the tie flag is set;
the tie flag is remembered; it writes nothing and the loop returns. -/
def Obligations.NoteSetsItsTiming : Prop :=
  ∀ (k : Fin 7) (p : BitVec 5) (s : State), p ≠ 0 →
    let q := s.seq s.cur
    let d0 := (if q.flags.getLsbD 0 then s.cfg.noteLenTriplet[k] else s.cfg.noteLen[k]).toNat
    let d := if q.flags.getLsbD 2 then (d0 + d0 / 2) % 256 else d0
    encode (.note k p) = .bytecode [BitVec.ofNat 8 (32 * (k.val + 1) + p.toNat)] ∧
    ∃ t, exec (.note k p) s = .next t ∧ SameInputs s t ∧ t.g = s.g ∧ t.trace = s.trace ∧ t.result = s.result ∧
      LoopReturned s t ∧ OnlySeq s.cur s t ∧ OnlyVoice s.cur s t ∧ CursorMoved s.cur 1 s t ∧
      (t.seq s.cur).duration.toNat = (q.duration.toNat + d) % 256 ∧
      (t.seq s.cur).sustain.toNat = (if q.flags.getLsbD 1 then 0xFF else max 1 (q.gate.toNat * d / 256)) ∧
      (∀ j, j < 8 → (t.seq s.cur).flags.getLsbD j = (decide (j ≠ 2) && q.flags.getLsbD j)) ∧
      t.seq s.cur = { q with cursor := (t.seq s.cur).cursor, duration := (t.seq s.cur).duration,
                             flags := (t.seq s.cur).flags, sustain := (t.seq s.cur).sustain,
                             tiedIn := q.flags.getLsbD 1 }

/-- R74, R75: NOTE's number is the 8-bit wrapped sum of the octave entry, the pitch and both transposes, clamped to 95; a note
not tied into re-triggers and takes its period at once, and so does any note without portamento; a tied-into note with
portamento starts a glide from the period it has. -/
def Obligations.NoteSetsItsPitch : Prop :=
  ∀ (k : Fin 7) (p : BitVec 5) (s : State), p ≠ 0 →
    let q := s.seq s.cur
    let x := s.voice s.cur
    let oi := (if q.flags.getLsbD 3 then 8 else 0) + q.flags.toNat / 16 % 8
    let sum := ((s.cfg.octaveTable.toList.getD oi 0).toNat + (p.toNat - 1) + s.g.gtrans.toNat + q.ttrans.toNat) % 256
    ∃ t, exec (.note k p) s = .next t ∧
      (let y := t.voice s.cur
       y.note.val = min sum 95 ∧
       (if x.portaRate.toNat % 128 = 0 ∨ q.tiedIn = false then
          y.period = periodEntry s.cfg y.note ∧ y.portaActive = false
        else y.period = x.period ∧ y.portaActive = true) ∧
       y.reloadPending = (x.reloadPending || !q.tiedIn) ∧
       y = { x with note := y.note, period := y.period, portaActive := y.portaActive, reloadPending := y.reloadPending })

/-! ## Flag commands (41_cmd_flags.md) -/

/-- R77, R78, R80: TRIPLET, TIE and OCT15VA, the bytes 0x00, 0x01 and 0x03, flip exactly their own flag, bits 0, 1 and 3. -/
def Obligations.ToggleCommandsFlipOneFlag : Prop :=
  ∀ (s : State) (i : Instr) (byte : Byte) (bit : Nat),
    (i, byte, bit) ∈ [(Instr.triplet, 0x00#8, 0), (Instr.tie, 0x01#8, 1), (Instr.oct15va, 0x03#8, 3)] →
    encode i = .bytecode [byte] ∧
    ∃ t, exec i s = .next t ∧ FrameSeq s.cur s t ∧ CursorMoved s.cur 1 s t ∧
      t.seq s.cur = { s.seq s.cur with cursor := (t.seq s.cur).cursor, flags := (t.seq s.cur).flags } ∧
      ∀ j, j < 8 → (t.seq s.cur).flags.getLsbD j =
        if j = bit then !(s.seq s.cur).flags.getLsbD j else (s.seq s.cur).flags.getLsbD j

/-- R79: DOT, the byte 0x02, sets the dot flag and nothing else; set already, it stays set. -/
def Obligations.DotSetsItsFlag : Prop :=
  encode .dot = .bytecode [0x02] ∧
  ∀ (s : State), ∃ t, exec .dot s = .next t ∧ FrameSeq s.cur s t ∧ CursorMoved s.cur 1 s t ∧
    t.seq s.cur = { s.seq s.cur with cursor := (t.seq s.cur).cursor, flags := (t.seq s.cur).flags } ∧
    ∀ j, j < 8 → (t.seq s.cur).flags.getLsbD j = (decide (j = 2) || (s.seq s.cur).flags.getLsbD j)

/-- R81, R82: FLAGS, bytes 0x04 a, overwrites the four mode flags from a[3:0], OCT, bytes 0x09 a, the octave from a[2:0]; every
other bit is kept. -/
def Obligations.FlagsAndOctaveOverwriteTheirField : Prop :=
  ∀ (a : Byte) (s : State),
    encode (.flags a) = .bytecode [0x04, a] ∧ encode (.oct a) = .bytecode [0x09, a] ∧
    (∃ t, exec (.flags a) s = .next t ∧ FrameSeq s.cur s t ∧ CursorMoved s.cur 2 s t ∧
      t.seq s.cur = { s.seq s.cur with cursor := (t.seq s.cur).cursor, flags := (t.seq s.cur).flags } ∧
      ∀ j, j < 8 → (t.seq s.cur).flags.getLsbD j =
        if j < 4 then a.getLsbD j else (s.seq s.cur).flags.getLsbD j) ∧
    (∃ t, exec (.oct a) s = .next t ∧ FrameSeq s.cur s t ∧ CursorMoved s.cur 2 s t ∧
      t.seq s.cur = { s.seq s.cur with cursor := (t.seq s.cur).cursor, flags := (t.seq s.cur).flags } ∧
      ∀ j, j < 8 → (t.seq s.cur).flags.getLsbD j =
        if 4 ≤ j ∧ j < 7 then a.getLsbD (j - 4) else (s.seq s.cur).flags.getLsbD j)

/-! ## Parameter commands (42_cmd_params.md) -/

/-- R83, R87: TEMPO, bytes 0x05 w0 w1, writes its word, in the configured byte order, to G.tempo and clears G.frac; GTRANS,
bytes 0x0A a, writes G.gtrans. -/
def Obligations.TempoAndGlobalTransposeWriteG : Prop :=
  ∀ (s : State),
    (∀ w0 w1, encode (.tempo w0 w1) = .bytecode [0x05, w0, w1] ∧
      ∃ t, exec (.tempo w0 w1) s = .next t ∧ FrameGlobal s.cur 3 s t ∧
      t.g = { s.g with tempo := t.g.tempo, frac := 0 } ∧
      t.g.tempo.toNat =
        match s.cfg.wordOrder with
        | .hiFirst => w0.toNat * 256 + w1.toNat
        | .loFirst => w1.toNat * 256 + w0.toNat) ∧
    (∀ a, encode (.gtrans a) = .bytecode [0x0A, a] ∧
      ∃ t, exec (.gtrans a) s = .next t ∧ FrameGlobal s.cur 2 s t ∧ t.g = { s.g with gtrans := a })

/-- R84, R88: GATE, bytes 0x06 a, writes the channel's gate time, TRANS, bytes 0x0B a, its transpose. -/
def Obligations.GateAndTransposeWriteTheirField : Prop :=
  ∀ (a : Byte) (s : State),
    encode (.gate a) = .bytecode [0x06, a] ∧ encode (.trans a) = .bytecode [0x0B, a] ∧
    (∃ t, exec (.gate a) s = .next t ∧ FrameSeq s.cur s t ∧ CursorMoved s.cur 2 s t ∧
      t.seq s.cur = { s.seq s.cur with cursor := (t.seq s.cur).cursor, gate := a }) ∧
    (∃ t, exec (.trans a) s = .next t ∧ FrameSeq s.cur s t ∧ CursorMoved s.cur 2 s t ∧
      t.seq s.cur = { s.seq s.cur with cursor := (t.seq s.cur).cursor, ttrans := a })

/-- R85, R91: VOL, bytes 0x07 a, writes the volume bits 3:0 and forces the marker bits 5:4 to 1; DUTY, bytes 0x18 a, writes the
duty bits 7:6; every other bit of the volume/duty byte is kept. -/
def Obligations.VolumeAndDutyMergeTheirField : Prop :=
  ∀ (a : Byte) (s : State),
    encode (.vol a) = .bytecode [0x07, a] ∧ encode (.duty a) = .bytecode [0x18, a] ∧
    (∃ t, exec (.vol a) s = .next t ∧ FrameVoice s.cur 2 s t ∧
      t.voice s.cur = { s.voice s.cur with volDuty := (t.voice s.cur).volDuty } ∧
      ∀ j, j < 8 → (t.voice s.cur).volDuty.getLsbD j =
        if j < 4 then a.getLsbD j else if j < 6 then true else (s.voice s.cur).volDuty.getLsbD j) ∧
    (∃ t, exec (.duty a) s = .next t ∧ FrameVoice s.cur 2 s t ∧
      t.voice s.cur = { s.voice s.cur with volDuty := (t.voice s.cur).volDuty } ∧
      ∀ j, j < 8 → (t.voice s.cur).volDuty.getLsbD j =
        if 6 ≤ j then a.getLsbD j else (s.voice s.cur).volDuty.getLsbD j)

/-- R86: INST, bytes 0x08 a, selects record instrTable + 8a modulo 65536 only when the number changes, and always asks for a reload and marks
the voice as having an instrument. -/
def Obligations.InstrumentIsSelected : Prop :=
  ∀ (a : Byte) (s : State),
    let x := s.voice s.cur
    encode (.inst a) = .bytecode [0x08, a] ∧
    ∃ t, exec (.inst a) s = .next t ∧ FrameVoice s.cur 2 s t ∧
      t.voice s.cur = { x with instrNumber := a, instrPtr := (t.voice s.cur).instrPtr, reloadPending := true,
                               hasInstr := true } ∧
      (a ≠ x.instrNumber → (t.voice s.cur).instrPtr.toNat = (s.g.instrTable.toNat + 8 * a.toNat) % 65536) ∧
      (a = x.instrNumber → (t.voice s.cur).instrPtr = x.instrPtr)

/-- R89, R90: DETUNE, bytes 0x0C a, stores its operand; PORTA, bytes 0x0D a, stores its operand and clears portaActive exactly
when the magnitude a[6:0] is 0. -/
def Obligations.DetuneAndPortamentoAreStored : Prop :=
  ∀ (a : Byte) (s : State),
    encode (.detune a) = .bytecode [0x0C, a] ∧ encode (.porta a) = .bytecode [0x0D, a] ∧
    (∃ t, exec (.detune a) s = .next t ∧ FrameVoice s.cur 2 s t ∧
      t.voice s.cur = { s.voice s.cur with detune := a }) ∧
    (∃ t, exec (.porta a) s = .next t ∧ FrameVoice s.cur 2 s t ∧
      t.voice s.cur = { s.voice s.cur with
        portaRate := a, portaActive := (s.voice s.cur).portaActive && decide (a.toNat % 128 ≠ 0) })

/-! ## Control-flow commands (43_cmd_flow.md) -/

/-- R92: LOOPk, bytes 0x0E + k, a, t0, t1, reloads a zero counter of its level from the operand, decrements it modulo 256, and jumps, under ExpiryJump when
it has reached zero and under ClassicRepeat when it has not; otherwise it skips the target. The other levels are kept. -/
def Obligations.LoopEndCountsAndJumps : Prop :=
  ∀ (k : Level) (a t0 t1 : Byte) (s : State),
    let q := s.seq s.cur
    encode (loopInstr k a t0 t1) = .bytecode [BitVec.ofNat 8 (0x0E + k.toNat), a, t0, t1] ∧
    ∃ t, exec (loopInstr k a t0 t1) s = .next t ∧ FrameSeq s.cur s t ∧
      (let n := ((t.seq s.cur).loop.get k).toNat
       n = ((if (q.loop.get k).toNat = 0 then a.toNat else (q.loop.get k).toNat) + 255) % 256 ∧
       (∀ j, j ≠ k → (t.seq s.cur).loop.get j = q.loop.get j) ∧
       t.seq s.cur = { q with cursor := (t.seq s.cur).cursor, loop := (t.seq s.cur).loop } ∧
       (if (s.cfg.loopEndRule = .expiryJump ∧ n = 0) ∨ (s.cfg.loopEndRule = .classicRepeat ∧ n ≠ 0) then
          (t.seq s.cur).cursor.toNat =
            match s.cfg.wordOrder with
            | .hiFirst => t0.toNat * 256 + t1.toNat
            | .loFirst => t1.toNat * 256 + t0.toNat
        else CursorMoved s.cur 4 s t))

/-- R92's testable property under ExpiryJump: a LOOPk with count N at one address, its counter 0 at first, jumps on the N-th
pass only, the counter counting down N - 1, ..., 0. -/
def Obligations.LoopJumpsOnTheLastPassOnly : Prop :=
  ∀ (k : Level) (a t0 t1 : Byte) (s : State) (j : Nat), s.cfg.loopEndRule = .expiryJump →
    (s.seq s.cur).loop.get k = 0 → j < a.toNat →
    ∃ t, exec (loopInstr k a t0 t1) ((loopPass k a t0 t1)^[j] s) = .next t ∧
      ((t.seq s.cur).loop.get k).toNat = a.toNat - (j + 1) ∧
      (t.seq s.cur).cursor =
        if j + 1 = a.toNat then assemble s.cfg.wordOrder t0 t1 else (s.seq s.cur).cursor + 4

/-- R93: BREAKk, bytes 0x12 + k, a, t0, t1, fires exactly when its level's counter is 1: it overwrites the four mode flags from a[3:0], clears the counter
if LOOP_BREAK_CLEARS, and jumps; otherwise it only skips the target. -/
def Obligations.LoopBreakFiresOnOne : Prop :=
  ∀ (k : Level) (a t0 t1 : Byte) (s : State),
    let q := s.seq s.cur
    encode (breakInstr k a t0 t1) = .bytecode [BitVec.ofNat 8 (0x12 + k.toNat), a, t0, t1] ∧
    ∃ t, exec (breakInstr k a t0 t1) s = .next t ∧ FrameSeq s.cur s t ∧
      ((q.loop.get k).toNat ≠ 1 → OnlyCursor s.cur 4 s t) ∧
      ((q.loop.get k).toNat = 1 →
        (∀ j, j < 8 → (t.seq s.cur).flags.getLsbD j = if j < 4 then a.getLsbD j else q.flags.getLsbD j) ∧
        (∀ j, (t.seq s.cur).loop.get j = if j = k ∧ s.cfg.loopBreakClears = true then 0 else q.loop.get j) ∧
        (t.seq s.cur).cursor.toNat =
          (match s.cfg.wordOrder with
           | .hiFirst => t0.toNat * 256 + t1.toNat
           | .loFirst => t1.toNat * 256 + t0.toNat) ∧
        t.seq s.cur = { q with cursor := (t.seq s.cur).cursor, flags := (t.seq s.cur).flags,
                               loop := (t.seq s.cur).loop })

/-- R94: JUMP, bytes 0x16 t0 t1, sets the cursor to its target, 0 included, and the command loop goes on. -/
def Obligations.JumpSetsTheCursor : Prop :=
  ∀ (t0 t1 : Byte) (s : State),
    encode (.jump t0 t1) = .bytecode [0x16, t0, t1] ∧
    ∃ t, exec (.jump t0 t1) s = .next t ∧ FrameSeq s.cur s t ∧
      t.seq s.cur = { s.seq s.cur with cursor := (t.seq s.cur).cursor } ∧
      (t.seq s.cur).cursor.toNat =
        match s.cfg.wordOrder with
        | .hiFirst => t0.toNat * 256 + t1.toNat
        | .loFirst => t1.toNat * 256 + t0.toNat

/-- R95: HALT, bytes 0x17 a, zeroes the cursor, writes the silence value of the channel (0x30, on the triangle kind 0x00) unless muted, leaves
everything else as it is, and the command loop returns. -/
def Obligations.HaltSilencesItsChannel : Prop :=
  ∀ (a : Byte) (s : State),
    encode (.halt a) = .bytecode [0x17, a] ∧
    ∃ t, exec (.halt a) s = .next t ∧ SameInputs s t ∧ t.g = s.g ∧ t.v = s.v ∧ t.result = s.result ∧ LoopReturned s t ∧
      OnlySeq s.cur s t ∧ t.seq s.cur = { s.seq s.cur with cursor := 0 } ∧
      t.trace = s.trace ++
        (if s.g.mute then []
         else [⟨s.cfg.regVol.get s.cur, if s.cfg.chKind.get s.cur = .triangle then 0x00 else 0x30⟩])

/-- R96, R136: an illegal byte, 0x19 to 0x1F, fetches its operand and raises CorruptSequence: the fault records code 1, the channel, the
byte's address and the byte, the call ends and returns Faulted, and nothing else changes. -/
def Obligations.IllegalByteRaisesCorruptSequence : Prop :=
  ∀ (i : Instr) (b a : Byte) (s : State),
    ((i = .ill19 a ∧ b = 0x19) ∨ (∃ low, i = .ill1A1B low a ∧ b.toNat = 0x1A + low.toNat) ∨
      (∃ low, i = .ill1C1F low a ∧ b.toNat = 0x1C + low.toNat)) →
    encode i = .bytecode [b, a] ∧
    ∃ t, exec i s = .next t ∧
      (let info : CorruptSequence := ⟨1, s.cur, (s.seq s.cur).cursor, b⟩
       t.g = { s.g with fault := some info } ∧ t.result = some (.faulted info)) ∧
      t.phase = .ready ∧ t.trace = s.trace ∧ t.v = s.v ∧ SameInputs s t ∧ OnlyCursor s.cur 2 s t

/-! ## Host calls (47_host.md) -/

/-- R125: a song init takes the song header from the song table (empty when the entry is 0), resets every field of G but the
fault and the refusal mark, every voice and every sequencer, loads the instrument table and the four cursors, emits exactly
the enable write and returns Ok. -/
def Obligations.SongInitResetsAndLoads : Prop :=
  ∀ (track region : Byte) (s : State), track.toNat ≤ 0xEF → s.g.fault = none →
    let ptr := s.read16 (s.cfg.songTableAddr + BitVec.ofNat 16 (2 * (track.toNat % (s.cfg.trackCountPred.val + 1))))
    ∃ t, exec (.songInit track region) s = .next t ∧ SameInputs s t ∧ t.phase = .ready ∧ t.result = some .ok ∧
      t.trace = s.trace ++ [⟨s.cfg.regEnable, s.cfg.enableValue⟩] ∧
      t.g = { Global.reset none s.g.refused with instrTable := if ptr = 0 then 0 else s.read16 ptr } ∧
      (∀ c, t.voice c = { Voice.reset c t.g.instrTable s.cfg.hiCacheReset with id := (s.voice c).id }) ∧
      (∀ c, t.seq c = { Seq.reset with
        cursor := if ptr = 0 then 0 else s.read16 (ptr + BitVec.ofNat 16 (2 + 2 * c.toNat)) })

/-- R126, R127: stop all halts every channel, stops the SFX layer and silences every channel in the order 3, 2, 1, 0 unless
muted; stop-SFX-only stops the SFX layer alone and writes nothing. -/
def Obligations.StopCallsStop : Prop :=
  ∀ (region : Byte) (s : State), s.g.fault = none →
    (∃ t, exec (.metaF0 region) s = .next t ∧ SameInputs s t ∧ t.v = s.v ∧ t.phase = .ready ∧ t.result = some .ok ∧
      (∀ c, t.seq c = { s.seq c with cursor := 0 }) ∧
      t.g = { s.g with sfxCursor := 0, override := ⟨false, false, false, false⟩ } ∧
      t.trace = s.trace ++ (if s.g.mute then [] else [Four.i3, .i2, .i1, .i0].map fun c =>
        ⟨s.cfg.regVol.get c, if s.cfg.chKind.get c = .triangle then 0x00 else 0x30⟩)) ∧
    (∃ t, exec (.metaF1 region) s = .next t ∧ FrameHost s t .ok ∧ t.trace = s.trace ∧
      t.g = { s.g with sfxCursor := 0, override := ⟨false, false, false, false⟩ })

/-- R128: silence-now mutes, stops the SFX layer and writes one silence value per channel; and init(0xF2) followed by one
advance() makes exactly these four writes, whatever the state was. -/
def Obligations.SilenceNowThenAdvance : Prop :=
  ∀ (region : Byte) (s : State), s.g.fault = none →
    let four : List WriteEvent := [Four.i3, .i2, .i1, .i0].map fun c =>
      ⟨s.cfg.regVol.get c, if s.cfg.chKind.get c = .triangle then 0x00 else 0x30⟩
    (∃ t, exec (.metaF2 region) s = .next t ∧ FrameHost s t .ok ∧ t.trace = s.trace ++ four ∧
      t.g = { s.g with mute := true, sfxCursor := 0, override := ⟨false, false, false, false⟩ }) ∧
    (s.phase = .ready → s.calls = [.init 0xF2 region, .advance] →
      ∃ t, run 7 s = .next t ∧ t.trace = s.trace ++ four ∧ t.phase = .ready ∧ t.calls = [] ∧ t.v = s.v ∧ t.q = s.q)

/-- R129, R130: pause sets the suspend flag, resume clears suspend and mute, neither writes; and while suspended advance() is a
no-op that returns Ok (R63). -/
def Obligations.PauseAndResume : Prop :=
  ∀ (region : Byte) (s : State), s.g.fault = none →
    (∃ t, exec (.metaF3 region) s = .next t ∧ FrameHost s t .ok ∧ t.trace = s.trace ∧
      t.g = { s.g with suspend := true }) ∧
    (∃ t, exec (.metaF4 region) s = .next t ∧ FrameHost s t .ok ∧ t.trace = s.trace ∧
      t.g = { s.g with suspend := false, mute := false }) ∧
    (∀ rest, s.phase = .ready → s.calls = .advance :: rest → s.g.suspend = true →
      step s = .next { s with calls := rest, result := some .ok })

/-- R131, R132, R133: set fade rate latches region, commit copies it, start fade sets the countdown to fadeRate * 256, active
and not complete; none writes. -/
def Obligations.FadeCallsSetTheFade : Prop :=
  ∀ (region : Byte) (s : State), s.g.fault = none →
    (∃ t, exec (.metaF5 region) s = .next t ∧ FrameHost s t .ok ∧ t.trace = s.trace ∧
      t.g = { s.g with fadeRatePending := region }) ∧
    (∃ t, exec (.metaF6 region) s = .next t ∧ FrameHost s t .ok ∧ t.trace = s.trace ∧
      t.g = { s.g with fadeRate := s.g.fadeRatePending }) ∧
    (∃ t, exec (.metaF7 region) s = .next t ∧ FrameHost s t .ok ∧ t.trace = s.trace ∧
      t.g.fadeCounter.toNat = s.g.fadeRate.toNat * 256 ∧
      t.g = { s.g with fadeCounter := t.g.fadeCounter, fadeActive := true, fadeComplete := false })

/-- R134, R139: init with a track 0xF8..0xFF is refused: the first refused call is recorded and kept, nothing else changes, and
the call returns Refused. -/
def Obligations.UnknownTrackIsRefused : Prop :=
  ∀ (track region : Byte) (s : State), 0xF8 ≤ track.toNat → s.g.fault = none →
    ∃ t, exec (.metaUnknown track region) s = .next t ∧ FrameHost s t .refused ∧ t.trace = s.trace ∧
      t.g = { s.g with refused := t.g.refused } ∧
      t.g.refused = match s.g.refused with | none => some (.init track region) | some r => some r

/-! ## The SFX layer (46_sfx.md) -/

/-- R118 with the reference SFX_START: the claim replaces the override bits, the cursor is set, each claimed voice is reset,
nothing is written and no sequencer changes; with address 0 or an empty claim the call is refused and the first refusal kept
(R139). -/
def Obligations.SfxStartClaimsChannels : Prop :=
  ∀ (s : State) (addr : Word) (claim : Quad Bool) (rest : List HostCall), s.phase = .ready →
    s.calls = .sfxStart addr claim :: rest → s.g.fault = none →
    (addr ≠ 0 → (∃ c, claim.get c = true) → s.cfg.sfxStart = .reference →
      ∃ t, step s = .next t ∧ t.result = some .ok ∧ t.g = { s.g with override := claim, sfxCursor := addr } ∧
        (∀ c, t.voice c =
          if claim.get c then { Voice.reset c s.g.instrTable s.cfg.hiCacheReset with id := (s.voice c).id }
          else s.voice c) ∧
        t.q = s.q ∧ t.rom = s.rom ∧ t.cfg = s.cfg ∧ t.trace = s.trace ∧ t.phase = .ready ∧ t.calls = rest) ∧
    (addr = 0 ∨ (∀ c, claim.get c = false) →
      step s = .next { s with
        calls := rest, result := some .refused,
        g := { s.g with refused :=
          match s.g.refused with | none => some (.sfxStart addr claim) | some r => some r } })

/-- R117, R119: whatever SFX_STEP is, an advance() with an SFX event runs it once, before the elapsed ticks are computed, and
unless it raises a fault the frame goes on from what it left. It writes only the SFX cursor, the override bits and the voices
overridden afterwards (item 1), and a fault of R136's shape at its cursor (item 6); it emits writes only to those voices'
registers, and a REG_HI write leaves its value in hiCache (items 1 and 4); it overrides only while its cursor is not 0
(item 3), keeps R33 (item 5), and neither reads nor writes a sequencer (item 2). R118, R119: the same of SFX_START, whatever
it is, which sets the cursor to its address, resets the voices it claims, and emits no write. That a free layer is held to
this is log entry 7, that a fault of a start comes after the cursor, the claim and the resets is log entry 19, and that a start
whose event's bytes claim no channel is not refused is log entry 20. -/
def Obligations.SfxStepKeepsItsObligations : Prop :=
  let Raised : State → State → Prop := fun s t =>
    t.g.fault = s.g.fault ∨ ∃ c, t.phase = .ready ∧
      (let info : CorruptSequence := ⟨1, c, t.g.sfxCursor, s.memRead t.g.sfxCursor⟩
       t.g.fault = some info ∧ t.result = some (.faulted info))
  let Pointers : State → Prop := fun s =>
    ∀ c, (s.voice c).instrPtr = s.g.instrTable + 8 * (s.voice c).instrNumber.zeroExtend 16
  (∀ (s : State), (∀ c, s.g.override.get c = true → s.g.sfxCursor ≠ 0) →
    let t := s.sfxStep
    t.g = { s.g with sfxCursor := t.g.sfxCursor, override := t.g.override, fault := t.g.fault } ∧ Raised s t ∧
    t.q = s.q ∧ t.rom = s.rom ∧ t.cfg = s.cfg ∧ t.calls = s.calls ∧
    (∀ c, t.g.override.get c = false → t.voice c = s.voice c) ∧ (∀ c, (t.voice c).id = (s.voice c).id) ∧
    (∀ c, t.g.override.get c = true → t.g.sfxCursor ≠ 0) ∧
    (∃ ws : List SfxWrite,
      t.trace = s.trace ++ ws.map (fun w =>
        ⟨match w.reg with
          | .vol => s.cfg.regVol.get w.chan
          | .lo => s.cfg.regLo.get w.chan
          | .hi => s.cfg.regHi.get w.chan, w.value⟩) ∧
      (∀ w ∈ ws, t.g.override.get w.chan = true) ∧
      (∀ c w, (ws.filter fun x => x.chan = c ∧ x.reg = .hi).getLast? = some w → (t.voice c).hiCache = w.value) ∧
      (∀ c, (∀ w ∈ ws, w.chan = c → w.reg ≠ .hi) →
        (t.voice c).hiCache = (s.voice c).hiCache ∨ (t.voice c).hiCache = s.cfg.hiCacheReset)) ∧
    (Pointers s → Pointers t) ∧
    ∀ q', { s with q := q' }.sfxStep = { t with q := q' }) ∧
  (∀ (s : State) (rest : List HostCall), s.phase = .ready → s.calls = .advance :: rest → s.g.fault = none →
    s.g.suspend = false → s.g.sfxCursor ≠ 0 →
    let u := { s with calls := rest }.sfxStep
    ∃ t, step s = .next t ∧ (u.g.fault ≠ none → t = u) ∧
      (u.g.fault = none → ∃ e, t = { u with
          g := { u.g with frac := t.g.frac }, phase := .visit e .i3, result := none } ∧
        e.toNat = (u.g.frac.toNat + u.g.tempo.toNat) / 256 % 256 ∧
        t.g.frac.toNat = (u.g.frac.toNat + u.g.tempo.toNat) % 256)) ∧
  (∀ (s : State) (addr : Word) (claim : Quad Bool) (rest : List HostCall), s.phase = .ready →
    s.calls = .sfxStart addr claim :: rest → s.g.fault = none → addr ≠ 0 → (∃ c, claim.get c = true) →
    ∃ t, step s = .next t ∧
      t.g = { s.g with sfxCursor := addr, override := t.g.override, fault := t.g.fault } ∧ Raised s t ∧
      (t.g.fault = none → t.result = some .ok) ∧
      t.q = s.q ∧ t.rom = s.rom ∧ t.cfg = s.cfg ∧ t.trace = s.trace ∧ t.phase = .ready ∧ t.calls = rest ∧
      (∀ c, t.g.override.get c = false → t.voice c = s.voice c) ∧
      (∀ c, t.g.override.get c = true →
        (t.voice c).id = (s.voice c).id ∧ (t.voice c).hiCache = s.cfg.hiCacheReset ∧ (t.voice c).phase = .idle) ∧
      (Pointers s → Pointers t) ∧
      ∀ q', step { s with q := q' } = .next { t with q := q' })

/-! ## The volume write (44_envelope.md) -/

/-- R103, R104, R105, R106, R107: the byte VolumeWrite emits: the level's four significant bits combined with the track volume,
dimmed by tremolo exactly when the record's depth is at least 5, scaled by the high byte of the fade countdown on a faded
channel while a fade is active, then the triangle value, or the volume below volDuty[7:4]. The reference versions of the
functions are the spec's formulas. -/
def Obligations.VolumeWriteEmitsItsByte : Prop :=
  (∀ (s : State) (c : Chan),
    let x := s.voice c
    let combined := volCombine s.cfg.volCombine (BitVec.ofNat 4 (x.level.toNat / 16)) (BitVec.ofNat 4 (x.volDuty.toNat % 16))
    let dimmed :=
      if 5 ≤ (s.ir c 6).toNat then tremolo s.cfg.tremolo combined x.lfoPhase x.lfoPolarity (s.ir c 6) else combined
    let v : Nat :=
      if s.g.fadeActive = true ∧ s.cfg.fadeChannels.get c = true then dimmed.toNat * (s.g.fadeCounter.toNat / 256) / 256
      else dimmed.toNat
    s.volumeWrite c = { s with trace := s.trace ++ [⟨s.cfg.regVol.get c,
      if s.cfg.chKind.get c = .triangle then triValue s.cfg.triValue (BitVec.ofNat 4 v)
      else BitVec.ofNat 8 (x.volDuty.toNat / 16 * 16 + v)⟩] }) ∧
  (∀ e t : Nibble, (volCombine .reference e t).toNat = e.toNat * (t.toNat + 1) / 16) ∧
  (∀ (v : Nibble) (ph d : Byte) (pol : Bool), (tremolo .reference v ph pol d).toNat =
    v.toNat - (if pol then 255 - ph.toNat else ph.toNat) * d.toNat / 4096) ∧
  (∀ v : Nibble, triValue .reference v = if v.toNat = 0 then 0x00 else 0xFF)
end

