-- ==== Sys2Proof/Laws/State.lean ====
section
/-! SUPPORT. One lemma for each field and each update of the state, so that no proof unfolds a record update; reading a
record after it was written; and what an update leaves of the reads of voices, sequencers, ROM and the current channel. -/

namespace Sys2Proof

/-! ## Families of four -/

@[simp] theorem Quad.get_set_same {α : Type} (q : Quad α) (i : Four) (x : α) : (q.set i x).get i = x := by
  cases i <;> rfl

theorem Quad.get_set_other {α : Type} (q : Quad α) (i j : Four) (x : α) (h : j ≠ i) : (q.set i x).get j = q.get j := by
  cases i <;> cases j <;> first | rfl | exact absurd rfl h

theorem Quad.get_set {α : Type} (q : Quad α) (i j : Four) (x : α) :
    (q.set i x).get j = if j = i then x else q.get j := by
  cases i <;> cases j <;> rfl

@[simp] theorem Quad.get_fill {α : Type} (i : Four) (x : α) : (Quad.fill x).get i = x := by
  cases i <;> rfl

@[simp] theorem Quad.set_get {α : Type} (q : Quad α) (i : Four) : q.set i (q.get i) = q := by
  cases i <;> rfl

@[simp] theorem Quad.set_set {α : Type} (q : Quad α) (i : Four) (x y : α) : (q.set i x).set i y = q.set i y := by
  cases i <;> rfl

theorem Quad.ext_get {α : Type} {p q : Quad α} (h : ∀ i, p.get i = q.get i) : p = q := by
  have h0 := h .i0
  have h1 := h .i1
  have h2 := h .i2
  have h3 := h .i3
  cases p
  cases q
  simp_all [Quad.get]

end Sys2Proof

namespace Sys2Proof.Machine

/-! ## setVoice -/

@[simp] theorem State.setVoice_g (s : State) (c : Chan) (x : Voice) : (s.setVoice c x).g = s.g := rfl
@[simp] theorem State.setVoice_v (s : State) (c : Chan) (x : Voice) : (s.setVoice c x).v = s.v.set c x := rfl
@[simp] theorem State.setVoice_q (s : State) (c : Chan) (x : Voice) : (s.setVoice c x).q = s.q := rfl
@[simp] theorem State.setVoice_rom (s : State) (c : Chan) (x : Voice) : (s.setVoice c x).rom = s.rom := rfl
@[simp] theorem State.setVoice_cfg (s : State) (c : Chan) (x : Voice) : (s.setVoice c x).cfg = s.cfg := rfl
@[simp] theorem State.setVoice_phase (s : State) (c : Chan) (x : Voice) : (s.setVoice c x).phase = s.phase := rfl
@[simp] theorem State.setVoice_calls (s : State) (c : Chan) (x : Voice) : (s.setVoice c x).calls = s.calls := rfl
@[simp] theorem State.setVoice_trace (s : State) (c : Chan) (x : Voice) : (s.setVoice c x).trace = s.trace := rfl
@[simp] theorem State.setVoice_result (s : State) (c : Chan) (x : Voice) : (s.setVoice c x).result = s.result := rfl
@[simp] theorem State.setVoice_seq (s : State) (c : Chan) (x : Voice) (d : Chan) : (s.setVoice c x).seq d = s.seq d := rfl
@[simp] theorem State.setVoice_memRead (s : State) (c : Chan) (x : Voice) (m : Word) : (s.setVoice c x).memRead m = s.memRead m := rfl
@[simp] theorem State.setVoice_read16 (s : State) (c : Chan) (x : Voice) (m : Word) : (s.setVoice c x).read16 m = s.read16 m := rfl
@[simp] theorem State.setVoice_cur (s : State) (c : Chan) (x : Voice) : (s.setVoice c x).cur = s.cur := rfl

/-! ## setSeq -/

@[simp] theorem State.setSeq_g (s : State) (c : Chan) (x : Seq) : (s.setSeq c x).g = s.g := rfl
@[simp] theorem State.setSeq_v (s : State) (c : Chan) (x : Seq) : (s.setSeq c x).v = s.v := rfl
@[simp] theorem State.setSeq_q (s : State) (c : Chan) (x : Seq) : (s.setSeq c x).q = s.q.set c x := rfl
@[simp] theorem State.setSeq_rom (s : State) (c : Chan) (x : Seq) : (s.setSeq c x).rom = s.rom := rfl
@[simp] theorem State.setSeq_cfg (s : State) (c : Chan) (x : Seq) : (s.setSeq c x).cfg = s.cfg := rfl
@[simp] theorem State.setSeq_phase (s : State) (c : Chan) (x : Seq) : (s.setSeq c x).phase = s.phase := rfl
@[simp] theorem State.setSeq_calls (s : State) (c : Chan) (x : Seq) : (s.setSeq c x).calls = s.calls := rfl
@[simp] theorem State.setSeq_trace (s : State) (c : Chan) (x : Seq) : (s.setSeq c x).trace = s.trace := rfl
@[simp] theorem State.setSeq_result (s : State) (c : Chan) (x : Seq) : (s.setSeq c x).result = s.result := rfl
@[simp] theorem State.setSeq_voice (s : State) (c : Chan) (x : Seq) (d : Chan) : (s.setSeq c x).voice d = s.voice d := rfl
@[simp] theorem State.setSeq_memRead (s : State) (c : Chan) (x : Seq) (m : Word) : (s.setSeq c x).memRead m = s.memRead m := rfl
@[simp] theorem State.setSeq_read16 (s : State) (c : Chan) (x : Seq) (m : Word) : (s.setSeq c x).read16 m = s.read16 m := rfl
@[simp] theorem State.setSeq_cur (s : State) (c : Chan) (x : Seq) : (s.setSeq c x).cur = s.cur := rfl
@[simp] theorem State.setSeq_ir (s : State) (c : Chan) (x : Seq) (d : Chan) (k : Word) : (s.setSeq c x).ir d k = s.ir d k := rfl

/-! ## setG -/

@[simp] theorem State.setG_g (s : State) (x : Global) : (s.setG x).g = x := rfl
@[simp] theorem State.setG_v (s : State) (x : Global) : (s.setG x).v = s.v := rfl
@[simp] theorem State.setG_q (s : State) (x : Global) : (s.setG x).q = s.q := rfl
@[simp] theorem State.setG_rom (s : State) (x : Global) : (s.setG x).rom = s.rom := rfl
@[simp] theorem State.setG_cfg (s : State) (x : Global) : (s.setG x).cfg = s.cfg := rfl
@[simp] theorem State.setG_phase (s : State) (x : Global) : (s.setG x).phase = s.phase := rfl
@[simp] theorem State.setG_calls (s : State) (x : Global) : (s.setG x).calls = s.calls := rfl
@[simp] theorem State.setG_trace (s : State) (x : Global) : (s.setG x).trace = s.trace := rfl
@[simp] theorem State.setG_result (s : State) (x : Global) : (s.setG x).result = s.result := rfl
@[simp] theorem State.setG_voice (s : State) (x : Global) (d : Chan) : (s.setG x).voice d = s.voice d := rfl
@[simp] theorem State.setG_seq (s : State) (x : Global) (d : Chan) : (s.setG x).seq d = s.seq d := rfl
@[simp] theorem State.setG_memRead (s : State) (x : Global) (m : Word) : (s.setG x).memRead m = s.memRead m := rfl
@[simp] theorem State.setG_read16 (s : State) (x : Global) (m : Word) : (s.setG x).read16 m = s.read16 m := rfl
@[simp] theorem State.setG_cur (s : State) (x : Global) : (s.setG x).cur = s.cur := rfl
@[simp] theorem State.setG_ir (s : State) (x : Global) (d : Chan) (k : Word) : (s.setG x).ir d k = s.ir d k := rfl

/-! ## regWrite -/

@[simp] theorem State.regWrite_g (s : State) (a : Word) (b : Byte) : (s.regWrite a b).g = s.g := rfl
@[simp] theorem State.regWrite_v (s : State) (a : Word) (b : Byte) : (s.regWrite a b).v = s.v := rfl
@[simp] theorem State.regWrite_q (s : State) (a : Word) (b : Byte) : (s.regWrite a b).q = s.q := rfl
@[simp] theorem State.regWrite_rom (s : State) (a : Word) (b : Byte) : (s.regWrite a b).rom = s.rom := rfl
@[simp] theorem State.regWrite_cfg (s : State) (a : Word) (b : Byte) : (s.regWrite a b).cfg = s.cfg := rfl
@[simp] theorem State.regWrite_phase (s : State) (a : Word) (b : Byte) : (s.regWrite a b).phase = s.phase := rfl
@[simp] theorem State.regWrite_calls (s : State) (a : Word) (b : Byte) : (s.regWrite a b).calls = s.calls := rfl
@[simp] theorem State.regWrite_trace (s : State) (a : Word) (b : Byte) : (s.regWrite a b).trace = s.trace ++ [⟨a, b⟩] := rfl
@[simp] theorem State.regWrite_result (s : State) (a : Word) (b : Byte) : (s.regWrite a b).result = s.result := rfl
@[simp] theorem State.regWrite_voice (s : State) (a : Word) (b : Byte) (d : Chan) : (s.regWrite a b).voice d = s.voice d := rfl
@[simp] theorem State.regWrite_seq (s : State) (a : Word) (b : Byte) (d : Chan) : (s.regWrite a b).seq d = s.seq d := rfl
@[simp] theorem State.regWrite_memRead (s : State) (a : Word) (b : Byte) (m : Word) : (s.regWrite a b).memRead m = s.memRead m := rfl
@[simp] theorem State.regWrite_read16 (s : State) (a : Word) (b : Byte) (m : Word) : (s.regWrite a b).read16 m = s.read16 m := rfl
@[simp] theorem State.regWrite_cur (s : State) (a : Word) (b : Byte) : (s.regWrite a b).cur = s.cur := rfl
@[simp] theorem State.regWrite_ir (s : State) (a : Word) (b : Byte) (d : Chan) (k : Word) : (s.regWrite a b).ir d k = s.ir d k := rfl

/-! ## advanceCursor -/

@[simp] theorem State.advanceCursor_g (s : State) (c : Chan) (n : Word) : (s.advanceCursor c n).g = s.g := rfl
@[simp] theorem State.advanceCursor_v (s : State) (c : Chan) (n : Word) : (s.advanceCursor c n).v = s.v := rfl
@[simp] theorem State.advanceCursor_q (s : State) (c : Chan) (n : Word) : (s.advanceCursor c n).q = s.q.set c { s.seq c with cursor := (s.seq c).cursor + n } := rfl
@[simp] theorem State.advanceCursor_rom (s : State) (c : Chan) (n : Word) : (s.advanceCursor c n).rom = s.rom := rfl
@[simp] theorem State.advanceCursor_cfg (s : State) (c : Chan) (n : Word) : (s.advanceCursor c n).cfg = s.cfg := rfl
@[simp] theorem State.advanceCursor_phase (s : State) (c : Chan) (n : Word) : (s.advanceCursor c n).phase = s.phase := rfl
@[simp] theorem State.advanceCursor_calls (s : State) (c : Chan) (n : Word) : (s.advanceCursor c n).calls = s.calls := rfl
@[simp] theorem State.advanceCursor_trace (s : State) (c : Chan) (n : Word) : (s.advanceCursor c n).trace = s.trace := rfl
@[simp] theorem State.advanceCursor_result (s : State) (c : Chan) (n : Word) : (s.advanceCursor c n).result = s.result := rfl
@[simp] theorem State.advanceCursor_voice (s : State) (c : Chan) (n : Word) (d : Chan) : (s.advanceCursor c n).voice d = s.voice d := rfl
@[simp] theorem State.advanceCursor_memRead (s : State) (c : Chan) (n : Word) (m : Word) : (s.advanceCursor c n).memRead m = s.memRead m := rfl
@[simp] theorem State.advanceCursor_read16 (s : State) (c : Chan) (n : Word) (m : Word) : (s.advanceCursor c n).read16 m = s.read16 m := rfl
@[simp] theorem State.advanceCursor_cur (s : State) (c : Chan) (n : Word) : (s.advanceCursor c n).cur = s.cur := rfl
@[simp] theorem State.advanceCursor_ir (s : State) (c : Chan) (n : Word) (d : Chan) (k : Word) : (s.advanceCursor c n).ir d k = s.ir d k := rfl

/-! ## setCursor -/

@[simp] theorem State.setCursor_g (s : State) (c : Chan) (n : Word) : (s.setCursor c n).g = s.g := rfl
@[simp] theorem State.setCursor_v (s : State) (c : Chan) (n : Word) : (s.setCursor c n).v = s.v := rfl
@[simp] theorem State.setCursor_q (s : State) (c : Chan) (n : Word) : (s.setCursor c n).q = s.q.set c { s.seq c with cursor := n } := rfl
@[simp] theorem State.setCursor_rom (s : State) (c : Chan) (n : Word) : (s.setCursor c n).rom = s.rom := rfl
@[simp] theorem State.setCursor_cfg (s : State) (c : Chan) (n : Word) : (s.setCursor c n).cfg = s.cfg := rfl
@[simp] theorem State.setCursor_phase (s : State) (c : Chan) (n : Word) : (s.setCursor c n).phase = s.phase := rfl
@[simp] theorem State.setCursor_calls (s : State) (c : Chan) (n : Word) : (s.setCursor c n).calls = s.calls := rfl
@[simp] theorem State.setCursor_trace (s : State) (c : Chan) (n : Word) : (s.setCursor c n).trace = s.trace := rfl
@[simp] theorem State.setCursor_result (s : State) (c : Chan) (n : Word) : (s.setCursor c n).result = s.result := rfl
@[simp] theorem State.setCursor_voice (s : State) (c : Chan) (n : Word) (d : Chan) : (s.setCursor c n).voice d = s.voice d := rfl
@[simp] theorem State.setCursor_memRead (s : State) (c : Chan) (n : Word) (m : Word) : (s.setCursor c n).memRead m = s.memRead m := rfl
@[simp] theorem State.setCursor_read16 (s : State) (c : Chan) (n : Word) (m : Word) : (s.setCursor c n).read16 m = s.read16 m := rfl
@[simp] theorem State.setCursor_cur (s : State) (c : Chan) (n : Word) : (s.setCursor c n).cur = s.cur := rfl
@[simp] theorem State.setCursor_ir (s : State) (c : Chan) (n : Word) (d : Chan) (k : Word) : (s.setCursor c n).ir d k = s.ir d k := rfl

/-! ## finishCall -/

@[simp] theorem State.finishCall_g (s : State) (r : CallResult) : (s.finishCall r).g = s.g := rfl
@[simp] theorem State.finishCall_v (s : State) (r : CallResult) : (s.finishCall r).v = s.v := rfl
@[simp] theorem State.finishCall_q (s : State) (r : CallResult) : (s.finishCall r).q = s.q := rfl
@[simp] theorem State.finishCall_rom (s : State) (r : CallResult) : (s.finishCall r).rom = s.rom := rfl
@[simp] theorem State.finishCall_cfg (s : State) (r : CallResult) : (s.finishCall r).cfg = s.cfg := rfl
@[simp] theorem State.finishCall_phase (s : State) (r : CallResult) : (s.finishCall r).phase = .ready := rfl
@[simp] theorem State.finishCall_calls (s : State) (r : CallResult) : (s.finishCall r).calls = s.calls := rfl
@[simp] theorem State.finishCall_trace (s : State) (r : CallResult) : (s.finishCall r).trace = s.trace := rfl
@[simp] theorem State.finishCall_result (s : State) (r : CallResult) : (s.finishCall r).result = some r := rfl
@[simp] theorem State.finishCall_voice (s : State) (r : CallResult) (d : Chan) : (s.finishCall r).voice d = s.voice d := rfl
@[simp] theorem State.finishCall_seq (s : State) (r : CallResult) (d : Chan) : (s.finishCall r).seq d = s.seq d := rfl
@[simp] theorem State.finishCall_memRead (s : State) (r : CallResult) (m : Word) : (s.finishCall r).memRead m = s.memRead m := rfl
@[simp] theorem State.finishCall_read16 (s : State) (r : CallResult) (m : Word) : (s.finishCall r).read16 m = s.read16 m := rfl
@[simp] theorem State.finishCall_ir (s : State) (r : CallResult) (d : Chan) (k : Word) : (s.finishCall r).ir d k = s.ir d k := rfl

/-! ## Records read after they were written -/

@[simp] theorem State.setVoice_voice_same (s : State) (c : Chan) (x : Voice) : (s.setVoice c x).voice c = x := by
  simp [State.voice]

theorem State.setVoice_voice_other (s : State) (c d : Chan) (x : Voice) (h : d ≠ c) :
    (s.setVoice c x).voice d = s.voice d := by
  simp [State.voice, Quad.get_set_other _ _ _ _ h]

theorem State.setVoice_voice (s : State) (c d : Chan) (x : Voice) :
    (s.setVoice c x).voice d = if d = c then x else s.voice d := by
  simp [State.voice, Quad.get_set]

@[simp] theorem State.setSeq_seq_same (s : State) (c : Chan) (x : Seq) : (s.setSeq c x).seq c = x := by
  simp [State.seq]

theorem State.setSeq_seq_other (s : State) (c d : Chan) (x : Seq) (h : d ≠ c) : (s.setSeq c x).seq d = s.seq d := by
  simp [State.seq, Quad.get_set_other _ _ _ _ h]

theorem State.setSeq_seq (s : State) (c d : Chan) (x : Seq) :
    (s.setSeq c x).seq d = if d = c then x else s.seq d := by
  simp [State.seq, Quad.get_set]

@[simp] theorem State.advanceCursor_seq_same (s : State) (c : Chan) (n : Word) :
    (s.advanceCursor c n).seq c = { s.seq c with cursor := (s.seq c).cursor + n } := by
  simp [State.advanceCursor]

theorem State.advanceCursor_seq (s : State) (c d : Chan) (n : Word) :
    (s.advanceCursor c n).seq d = if d = c then { s.seq c with cursor := (s.seq c).cursor + n } else s.seq d := by
  simp [State.advanceCursor, State.setSeq_seq]

@[simp] theorem State.setCursor_seq_same (s : State) (c : Chan) (t : Word) :
    (s.setCursor c t).seq c = { s.seq c with cursor := t } := by
  simp [State.setCursor]

theorem State.setCursor_seq (s : State) (c d : Chan) (t : Word) :
    (s.setCursor c t).seq d = if d = c then { s.seq c with cursor := t } else s.seq d := by
  simp [State.setCursor, State.setSeq_seq]

/-! ## leaveChannel: only the phase -/

theorem State.leaveChannel_eq (s : State) : s.leaveChannel = { s with phase := s.leaveChannel.phase } := by
  unfold State.leaveChannel
  split <;> rfl

@[simp] theorem State.leaveChannel_g (s : State) : s.leaveChannel.g = s.g := by
  rw [State.leaveChannel_eq]

@[simp] theorem State.leaveChannel_v (s : State) : s.leaveChannel.v = s.v := by
  rw [State.leaveChannel_eq]

@[simp] theorem State.leaveChannel_q (s : State) : s.leaveChannel.q = s.q := by
  rw [State.leaveChannel_eq]

@[simp] theorem State.leaveChannel_rom (s : State) : s.leaveChannel.rom = s.rom := by
  rw [State.leaveChannel_eq]

@[simp] theorem State.leaveChannel_cfg (s : State) : s.leaveChannel.cfg = s.cfg := by
  rw [State.leaveChannel_eq]

@[simp] theorem State.leaveChannel_calls (s : State) : s.leaveChannel.calls = s.calls := by
  rw [State.leaveChannel_eq]

@[simp] theorem State.leaveChannel_trace (s : State) : s.leaveChannel.trace = s.trace := by
  rw [State.leaveChannel_eq]

@[simp] theorem State.leaveChannel_result (s : State) : s.leaveChannel.result = s.result := by
  rw [State.leaveChannel_eq]

@[simp] theorem State.leaveChannel_voice (s : State) (d : Chan) : s.leaveChannel.voice d = s.voice d := by
  simp [State.voice]

@[simp] theorem State.leaveChannel_seq (s : State) (d : Chan) : s.leaveChannel.seq d = s.seq d := by
  simp [State.seq]

@[simp] theorem State.leaveChannel_memRead (s : State) (a : Word) : s.leaveChannel.memRead a = s.memRead a := by
  simp [State.memRead]

theorem State.leaveChannel_of_loop {s : State} {e : Byte} {c : Chan} (h : s.phase = .loop e c) :
    s.leaveChannel = { s with phase := afterChannel e c } := by
  simp [State.leaveChannel, h]

theorem State.leaveChannel_of_visit {s : State} {e : Byte} {c : Chan} (h : s.phase = .visit e c) :
    s.leaveChannel = { s with phase := afterChannel e c } := by
  simp [State.leaveChannel, h]

theorem State.cur_of_loop {s : State} {e : Byte} {c : Chan} (h : s.phase = .loop e c) : s.cur = c := by
  simp [State.cur, h]

/-! ## A host call -/

theorem State.unlessFaulted_of_none {s : State} {f : State → State} (h : s.g.fault = none) :
    s.unlessFaulted f = f s := by
  simp [State.unlessFaulted, h]

theorem State.unlessFaulted_of_some {s : State} {f : State → State} {r : CorruptSequence} (h : s.g.fault = some r) :
    s.unlessFaulted f = s.finishCall (.faulted r) := by
  simp [State.unlessFaulted, h]

end Sys2Proof.Machine
end

