-- ==== Sys2Proof/Laws/Voice.lean ====
section
/-! SUPPORT. The engines of a voice: what each may change, and everything a whole voice update does to the state. -/

namespace Sys2Proof.Machine

@[simp] theorem State.setVoice_setVoice (s : State) (c : Chan) (x y : Voice) :
    (s.setVoice c x).setVoice c y = s.setVoice c y := by
  simp [State.setVoice]

@[simp] theorem State.setVoice_self (s : State) (c : Chan) : s.setVoice c (s.voice c) = s := by
  simp [State.setVoice, State.voice]

@[simp] theorem State.setVoice_ir_of_ptr (s : State) (c : Chan) (x : Voice) (k : Word)
    (h : x.instrPtr = (s.voice c).instrPtr) : (s.setVoice c x).ir c k = s.ir c k := by
  simp [State.ir, h]

/-! ## Each engine's frame -/

theorem State.reloadIfPending_eq (s : State) (c : Chan) :
    s.reloadIfPending c =
      s.setVoice c (if (s.voice c).reloadPending then (s.voice c).reload (s.ir c 7) else s.voice c) := by
  unfold State.reloadIfPending
  split <;> simp

theorem Voice.lfoStep_frame (x : Voice) (r : Byte) :
    x.lfoStep r = { x with lfoPhase := (x.lfoStep r).lfoPhase, lfoPolarity := (x.lfoStep r).lfoPolarity } := by
  unfold Voice.lfoStep
  split <;> rfl

theorem Voice.envelopeStep_frame (x : Voice) (kind : ChKind) (r0 r1 r2 r3 : Byte) :
    x.envelopeStep kind r0 r1 r2 r3 =
      { x with level := (x.envelopeStep kind r0 r1 r2 r3).level, phase := (x.envelopeStep kind r0 r1 r2 r3).phase } := by
  unfold Voice.envelopeStep
  split
  · unfold Voice.attackStep
    split <;> rfl
  · unfold Voice.decayStep
    split <;> (try split) <;> rfl
  · rfl
  · unfold Voice.releaseStep
    split <;> (try split) <;> (try split) <;> rfl
  · rfl

theorem Voice.glideStep_frame (x : Voice) (target : Word) :
    x.glideStep target =
      { x with period := (x.glideStep target).period, portaActive := (x.glideStep target).portaActive } := by
  unfold Voice.glideStep Voice.snap
  dsimp only
  split <;> (try split) <;> (try split) <;> (try split) <;> rfl

theorem Voice.glideStep_active (x : Voice) (target : Word) (h : (x.glideStep target).portaActive = true) :
    x.portaActive = true := by
  unfold Voice.glideStep at h
  split at h
  · exact h
  · simp_all

theorem Voice.slideStep_frame (x : Voice) : x.slideStep = { x with period := x.slideStep.period } := by
  unfold Voice.slideStep
  split <;> (try split) <;> rfl

theorem Voice.release_eq (x : Voice) :
    x.release = { x with phase := if x.phase = .idle then .idle else .release } := by
  unfold Voice.release
  split <;> simp [*]
  all_goals
    obtain ⟨_, _, _, _, ph, _⟩ := x
    simp_all

/-- The envelope step keeps the level in 0..0xF0 (R102). -/
theorem Voice.envelopeStep_level (x : Voice) (kind : ChKind) (r0 r1 r2 r3 : Byte) (h : x.level.toNat ≤ 0xF0) :
    (x.envelopeStep kind r0 r1 r2 r3).level.toNat ≤ 0xF0 := by
  unfold Voice.envelopeStep
  split
  · unfold Voice.attackStep
    split
    · exact Nat.le_refl _
    · simp only [BitVec.toNat_add]
      omega
  · unfold Voice.decayStep
    split
    · exact h
    · split
      · dsimp only
        split <;> bv_omega
      · bv_omega
  · exact h
  · unfold Voice.releaseStep
    split
    · exact Nat.zero_le _
    all_goals
      split
      · exact h
      · split
        · exact Nat.zero_le _
        · bv_omega
  · exact h

/-! ## A whole update -/

/-- The voice of channel c before an update's writes: reload, LFO, envelope (R67). -/
def State.steppedVoice (s : State) (c : Chan) : Voice :=
  let x := if (s.voice c).reloadPending then (s.voice c).reload (s.ir c 7) else s.voice c
  (x.lfoStep (s.ir c 4)).envelopeStep (s.cfg.chKind.get c) (s.ir c 0) (s.ir c 1) (s.ir c 2) (s.ir c 3)

/-- The voice of channel c after an update's portamento step (R109, R110). -/
def State.glidedVoice (s : State) (c : Chan) : Voice :=
  if c = .i0 then (s.steppedVoice c).slideStep else (s.steppedVoice c).glideStep (periodEntry s.cfg (s.voice c).note)

theorem State.steppedVoice_frame (s : State) (c : Chan) :
    let y := s.steppedVoice c
    y = { s.voice c with
      phase := y.phase, reloadPending := false, lfoPolarity := y.lfoPolarity, lfoPhase := y.lfoPhase,
      volDuty := y.volDuty, level := y.level } := by
  unfold State.steppedVoice
  dsimp only
  rw [Voice.envelopeStep_frame, Voice.lfoStep_frame]
  split
  · rfl
  · cases h : (s.voice c).reloadPending <;> simp_all

theorem State.glidedVoice_frame (s : State) (c : Chan) :
    s.glidedVoice c =
      { s.steppedVoice c with period := (s.glidedVoice c).period, portaActive := (s.glidedVoice c).portaActive } := by
  unfold State.glidedVoice
  split
  · rw [Voice.slideStep_frame]
  · rw [Voice.glideStep_frame]

theorem State.updateVoice_steps (s : State) (c : Chan) :
    ((s.reloadIfPending c).lfoStep c).envelopeStep c = s.setVoice c (s.steppedVoice c) := by
  rw [State.reloadIfPending_eq]
  generalize hx : (if (s.voice c).reloadPending then (s.voice c).reload (s.ir c 7) else s.voice c) = x
  have hp : x.instrPtr = (s.voice c).instrPtr := by
    rw [← hx]
    split <;> rfl
  have hl : (x.lfoStep (s.ir c 4)).instrPtr = (s.voice c).instrPtr := by
    rw [Voice.lfoStep_frame]
    exact hp
  simp only [State.lfoStep, State.envelopeStep, State.setVoice_setVoice, State.setVoice_voice_same, State.setVoice_cfg,
    State.setVoice_ir_of_ptr _ _ _ _ hp, State.setVoice_ir_of_ptr _ _ _ _ hl]
  simp only [State.steppedVoice, hx]

/-- An update as one voice and its writes. -/
theorem State.updateVoice_eq (s : State) (c : Chan) :
    s.updateVoice c =
      ((s.setVoice c (s.glidedVoice c)).regWrite (s.cfg.regVol.get c)
        ((s.setVoice c (s.steppedVoice c)).volumeValue c
          ((s.setVoice c (s.steppedVoice c)).outputVolume c))).periodWrite c := by
  have hn : (s.steppedVoice c).note = (s.voice c).note := by rw [State.steppedVoice_frame]
  unfold State.updateVoice
  rw [State.updateVoice_steps]
  congr 1
  simp only [State.volumeWrite, State.portamentoStep, State.regWrite_voice, State.setVoice_voice_same,
    State.regWrite_cfg, State.setVoice_cfg, hn, State.glidedVoice]
  simp only [State.setVoice, State.regWrite, Quad.set_set]

/-- The period write as one trace and one cached byte (R114). -/
theorem State.periodWrite_eq (s : State) (c : Chan) :
    s.periodWrite c =
      { s with
        v := s.v.set c { s.voice c with hiCache := ((s.outPeriod c).extractLsb' 8 6).zeroExtend 8 }
        trace := s.trace ++ [⟨s.cfg.regLo.get c, (s.outPeriod c).extractLsb' 0 8⟩] ++
          (if ((s.outPeriod c).extractLsb' 8 6).zeroExtend 8 = (s.voice c).hiCache then []
           else [⟨s.cfg.regHi.get c, ((s.outPeriod c).extractLsb' 8 6).zeroExtend 8⟩]) } := by
  unfold State.periodWrite State.highWrite
  dsimp only
  rw [State.regWrite_voice]
  by_cases h : ((s.outPeriod c).extractLsb' 8 6).zeroExtend 8 = (s.voice c).hiCache
  · have : s.v.set c (s.voice c) = s.v := by simp [State.voice]
    rw [if_pos h, if_pos h, h]
    simp [State.regWrite, this]
  · rw [if_neg h, if_neg h]
    simp [State.regWrite, State.setVoice]

/-- Everything a voice update does to the state: it replaces the voice, whose selection, flags of selection, detune,
portamento rate and note stay, and appends two or three writes to the trace; it consumes a pending reload. -/
theorem State.updateVoice_form (s : State) (c : Chan) :
    ∃ x ws, s.updateVoice c = { s with v := s.v.set c x, trace := s.trace ++ ws } ∧
      (ws.length = 2 ∨ ws.length = 3) ∧ x.id = (s.voice c).id ∧ x.instrNumber = (s.voice c).instrNumber ∧
      x.instrPtr = (s.voice c).instrPtr ∧ x.hasInstr = (s.voice c).hasInstr ∧ x.reloadPending = false ∧
      x.level = (s.steppedVoice c).level ∧ x.phase = (s.steppedVoice c).phase ∧
      x.detune = (s.voice c).detune ∧ x.portaRate = (s.voice c).portaRate ∧ x.note = (s.voice c).note ∧
      (x.portaActive = true → (s.voice c).portaActive = true) := by
  have hg := State.glidedVoice_frame s c
  have hs := State.steppedVoice_frame s c
  dsimp only at hs
  have ha : (s.glidedVoice c).portaActive = true → (s.voice c).portaActive = true := by
    have hp : (s.steppedVoice c).portaActive = (s.voice c).portaActive := by rw [hs]
    rw [← hp]
    unfold State.glidedVoice
    split
    · rw [Voice.slideStep_frame]
      exact id
    · exact Voice.glideStep_active _ _
  rw [State.updateVoice_eq, State.periodWrite_eq]
  generalize State.volumeValue _ c _ = vol
  generalize State.outPeriod _ c = out
  refine ⟨{ s.glidedVoice c with hiCache := (out.extractLsb' 8 6).zeroExtend 8 },
    [⟨s.cfg.regVol.get c, vol⟩, ⟨s.cfg.regLo.get c, out.extractLsb' 0 8⟩] ++
      (if (out.extractLsb' 8 6).zeroExtend 8 = (s.glidedVoice c).hiCache then []
       else [⟨s.cfg.regHi.get c, (out.extractLsb' 8 6).zeroExtend 8⟩]), ?_, ?_, ?_⟩
  · simp [State.regWrite, State.setVoice, State.voice]
  · split <;> simp
  · dsimp only
    refine ⟨?_, ?_, ?_, ?_, ?_, ?_, ?_, ?_, ?_, ?_, ha⟩ <;> rw [hg] <;> dsimp only <;> rw [hs]

end Sys2Proof.Machine
end

