-- ==== Sys2Proof/Laws/Sfx.lean ====
section
/-! SUPPORT. The SFX layer: everything a write, a voice setting and a whole effect of it can do to the state. -/

namespace Sys2Proof.Machine

/-! ## Voices -/

/-- A Voice Reset changes the voice of its channel, nothing else. -/
theorem State.voiceReset_voice (s : State) (c d : Chan) :
    (s.voiceReset c).voice d =
      if d = c then { Voice.reset c s.g.instrTable s.cfg.hiCacheReset with id := (s.voice c).id } else s.voice d := by
  simp [State.voiceReset, State.setVoice_voice]

/-- The voice of channel c as a setting leaves it: unchanged if the channel is not overridden (R119 items 1 and 5). -/
def State.sfxVoiceOf (s : State) (c : Chan) (f : SfxVoice) : Voice :=
  if s.g.override.get c then
    (let x := ((if f.restart then { Voice.reset c s.g.instrTable s.cfg.hiCacheReset with id := (s.voice c).id }
      else s.voice c).sfxFields f)
     match f.inst with
     | some a => x.selectInstrument s.g.instrTable a
     | none => x)
  else s.voice c

/-- The setting of a claimed voice changes that voice, nothing else. -/
theorem State.sfxVoice_eq (s : State) (c : Chan) (f : SfxVoice) : s.sfxVoice c f = s.setVoice c (s.sfxVoiceOf c f) := by
  unfold State.sfxVoice State.sfxVoiceOf
  split
  · dsimp only
    split
    · simp only [State.voiceReset, State.setVoice_voice_same, State.setVoice_g, State.setVoice_setVoice]
      try rfl
    · rfl
  · simp

/-- The settings of the four voices change those voices, nothing else. -/
theorem State.sfxVoices_eq (s : State) (e : Quad SfxVoice) :
    s.sfxVoices e =
      { s with v := ⟨s.sfxVoiceOf .i0 (e.get .i0), s.sfxVoiceOf .i1 (e.get .i1), s.sfxVoiceOf .i2 (e.get .i2),
                     s.sfxVoiceOf .i3 (e.get .i3)⟩ } := by
  simp only [State.sfxVoices, State.sfxVoice_eq]
  rfl

/-- The same, channel by channel. -/
theorem State.sfxVoices_form (s : State) (e : Quad SfxVoice) :
    ∃ v, s.sfxVoices e = { s with v := v } ∧ ∀ c, v.get c = s.sfxVoiceOf c (e.get c) :=
  ⟨_, s.sfxVoices_eq e, fun c => by cases c <;> rfl⟩

/-- INST's setter keeps a voice's id, phase and period-high cache, and the rule of the instrument pointer (R33, R86). -/
theorem Voice.selectInstrument_frame (x : Voice) (tab : Word) (a : Byte) :
    (x.selectInstrument tab a).id = x.id ∧ (x.selectInstrument tab a).phase = x.phase ∧
    (x.selectInstrument tab a).hiCache = x.hiCache ∧
    (x.instrPtr = tab + 8 * x.instrNumber.zeroExtend 16 →
      (x.selectInstrument tab a).instrPtr = tab + 8 * (x.selectInstrument tab a).instrNumber.zeroExtend 16) := by
  unfold Voice.selectInstrument
  split
  · exact ⟨rfl, rfl, rfl, fun h => h⟩
  · exact ⟨rfl, rfl, rfl, fun _ => rfl⟩

/-- A setting keeps the channel id (R20). -/
theorem State.sfxVoiceOf_id (s : State) (c : Chan) (f : SfxVoice) : (s.sfxVoiceOf c f).id = (s.voice c).id := by
  unfold State.sfxVoiceOf
  split
  · dsimp only
    cases f.inst with
    | none => cases f.restart <;> rfl
    | some a => rw [(Voice.selectInstrument_frame _ _ _).1]; cases f.restart <;> rfl
  · rfl

/-- A setting keeps the rule of the instrument pointer (R33). -/
theorem State.sfxVoiceOf_instr (s : State) (c : Chan) (f : SfxVoice)
    (h : (s.voice c).instrPtr = s.g.instrTable + 8 * (s.voice c).instrNumber.zeroExtend 16) :
    (s.sfxVoiceOf c f).instrPtr = s.g.instrTable + 8 * (s.sfxVoiceOf c f).instrNumber.zeroExtend 16 := by
  have hb : ((if f.restart then { Voice.reset c s.g.instrTable s.cfg.hiCacheReset with id := (s.voice c).id }
      else s.voice c).sfxFields f).instrPtr = s.g.instrTable +
        8 * ((if f.restart then { Voice.reset c s.g.instrTable s.cfg.hiCacheReset with id := (s.voice c).id }
          else s.voice c).sfxFields f).instrNumber.zeroExtend 16 := by
    cases f.restart
    · exact h
    · simp [Voice.sfxFields, Voice.reset]
  unfold State.sfxVoiceOf
  split
  · dsimp only
    cases f.inst with
    | none => exact hb
    | some a => exact (Voice.selectInstrument_frame _ _ _).2.2.2 hb
  · exact h

/-- A setting leaves the period-high cache, or the value of a Voice Reset in it. -/
theorem State.sfxVoiceOf_hiCache (s : State) (c : Chan) (f : SfxVoice) :
    (s.sfxVoiceOf c f).hiCache = (s.voice c).hiCache ∨ (s.sfxVoiceOf c f).hiCache = s.cfg.hiCacheReset := by
  unfold State.sfxVoiceOf
  split
  · dsimp only
    cases f.inst with
    | none => cases f.restart <;> simp [Voice.sfxFields, Voice.reset]
    | some a =>
      dsimp only
      rw [(Voice.selectInstrument_frame _ _ _).2.2.1]
      cases f.restart <;> simp [Voice.sfxFields, Voice.reset]
  · exact .inl rfl

/-! ## Writes -/

/-- The write event of a write of the SFX layer. -/
def SfxWrite.event (w : SfxWrite) (k : Cfg) : WriteEvent := ⟨w.register k, w.value⟩

/-- The byte of the last REG_HI write to channel c among some writes, or b if there is none. -/
def lastHigh (c : Chan) (b : Byte) : List SfxWrite → Byte
  | [] => b
  | w :: ws => lastHigh c (if w.chan = c ∧ w.reg = .hi then w.value else b) ws

/-- A write of the SFX layer to an overridden channel: its event, and the cache of a REG_HI write (R119 item 4). -/
theorem State.sfxWrite_eq (s : State) (w : SfxWrite) (h : s.g.override.get w.chan = true) :
    s.sfxWrite w =
      { s with
        v := s.v.set w.chan
          { s.voice w.chan with hiCache := if w.reg = .hi then w.value else (s.voice w.chan).hiCache }
        trace := s.trace ++ [w.event s.cfg] } := by
  have hv : s.v.set w.chan (s.voice w.chan) = s.v := by simp [State.voice]
  unfold State.sfxWrite
  rw [if_pos h]
  cases hr : w.reg with
  | vol => simp [State.regWrite, SfxWrite.event, hv]
  | lo => simp [State.regWrite, SfxWrite.event, hv]
  | hi => simp [State.regWrite, State.setVoice, SfxWrite.event, State.voice]

/-- The writes of the SFX layer: the events of those to overridden channels, in order, and those channels' caches, each
the byte of its last REG_HI write. -/
theorem State.sfxWrites_form (l : List SfxWrite) (s : State) :
    ∃ v, s.sfxWrites l = { s with
        v := v
        trace := s.trace ++ (l.filter fun w => s.g.override.get w.chan).map fun w => w.event s.cfg } ∧
      ∀ c, v.get c = { s.voice c with
        hiCache := lastHigh c (s.voice c).hiCache (l.filter fun w => s.g.override.get w.chan) } := by
  induction l generalizing s with
  | nil => exact ⟨s.v, by simp [State.sfxWrites], fun _ => rfl⟩
  | cons w l ih =>
    obtain ⟨v, h1, h2⟩ := ih (s.sfxWrite w)
    by_cases h : s.g.override.get w.chan = true
    · rw [State.sfxWrite_eq s w h] at h1 h2
      refine ⟨v, ?_, ?_⟩
      · rw [State.sfxWrites, State.sfxWrite_eq s w h, h1]
        simp [h]
      · intro c
        rw [h2 c]
        by_cases hc : c = w.chan
        · subst hc
          simp [State.voice, h, lastHigh]
        · simp [State.voice, h, lastHigh, Quad.get_set_other _ _ _ _ hc, Ne.symm hc]
    · have hw : s.sfxWrite w = s := if_neg h
      rw [hw] at h1 h2
      refine ⟨v, ?_, ?_⟩
      · rw [State.sfxWrites, hw, h1]
        simp [h]
      · simpa [h] using h2

/-- No write to a channel leaves its cache. -/
theorem lastHigh_of_not_mem (c : Chan) (b : Byte) (ws : List SfxWrite) (h : ∀ w ∈ ws, w.chan = c → w.reg ≠ .hi) :
    lastHigh c b ws = b := by
  induction ws generalizing b with
  | nil => rfl
  | cons w ws ih =>
    rw [lastHigh, if_neg fun hw => h w (by simp) hw.1 hw.2]
    exact ih b fun w' hw' => h w' (by simp [hw'])

/-- The last REG_HI write to a channel is the one its cache holds (R119 item 4). -/
theorem lastHigh_of_getLast (c : Chan) (b : Byte) (ws : List SfxWrite) (w : SfxWrite)
    (h : (ws.filter fun x => x.chan = c ∧ x.reg = .hi).getLast? = some w) : lastHigh c b ws = w.value := by
  induction ws generalizing b with
  | nil => simp at h
  | cons x ws ih =>
    rw [lastHigh]
    by_cases hx : x.chan = c ∧ x.reg = .hi
    · rw [if_pos hx]
      rw [List.filter_cons_of_pos (by simpa using hx), List.getLast?_cons] at h
      cases hl : (ws.filter fun x => x.chan = c ∧ x.reg = .hi).getLast? with
      | none =>
        rw [hl] at h
        rw [lastHigh_of_not_mem]
        · simp at h
          rw [h]
        · intro w' hw' hc hr
          rw [List.getLast?_eq_none_iff, List.filter_eq_nil_iff] at hl
          exact hl w' hw' (by simp [hc, hr])
      | some y =>
        rw [hl] at h
        refine ih _ ?_
        rw [hl]
        simpa using h
    · rw [if_neg hx]
      rw [List.filter_cons_of_neg (by simpa using hx)] at h
      exact ih b h

/-! ## Effects -/

/-- Everything an effect of the SFX layer does: its two global fields, the voices overridden afterwards, write events to
those voices' registers, whose caches hold their last REG_HI write (R119 items 1 to 5). -/
theorem State.sfxApply_form (s : State) (e : SfxEffect) :
    let u : State := { s with g := { s.g with sfxCursor := e.sfxCursor, override := e.overrideBits } }
    let ws := e.writes.filter fun w => e.overrideBits.get w.chan
    ∃ v, s.sfxApply e = { u with v := v, trace := s.trace ++ ws.map fun w => w.event s.cfg } ∧
      (∀ c, v.get c = { u.sfxVoiceOf c (e.voices.get c) with
        hiCache := lastHigh c (u.sfxVoiceOf c (e.voices.get c)).hiCache ws }) ∧
      ∀ c, e.overrideBits.get c = false → v.get c = s.voice c := by
  dsimp only
  obtain ⟨v, h1, h2⟩ :=
    State.sfxVoices_form { s with g := { s.g with sfxCursor := e.sfxCursor, override := e.overrideBits } } e.voices
  have hs : s.sfxApply e = State.sfxWrites
      { s with g := { s.g with sfxCursor := e.sfxCursor, override := e.overrideBits }, v := v } e.writes := by
    unfold State.sfxApply State.setG
    rw [h1]
  obtain ⟨v', h3, h4⟩ := State.sfxWrites_form e.writes
    { s with g := { s.g with sfxCursor := e.sfxCursor, override := e.overrideBits }, v := v }
  refine ⟨v', hs.trans h3, fun c => ?_, fun c ho => ?_⟩
  · rw [h4 c]
    simp only [State.voice, h2]
  · rw [h4 c, lastHigh_of_not_mem]
    · show v.get c = s.voice c
      rw [h2 c, State.sfxVoiceOf, if_neg (by simp [ho])]
      rfl
    · intro w hw hc _
      rw [List.mem_filter, hc] at hw
      simp [ho] at hw

/-- The settings neither read nor write a sequencer (R119 item 2). -/
theorem State.sfxVoices_seq (s : State) (e : Quad SfxVoice) (q : Quad Seq) :
    { s with q := q }.sfxVoices e = { s.sfxVoices e with q := q } := by
  rw [State.sfxVoices_eq, State.sfxVoices_eq]
  rfl

/-- The writes neither read nor write a sequencer (R119 item 2). -/
theorem State.sfxWrites_seq (l : List SfxWrite) (s : State) (q : Quad Seq) :
    { s with q := q }.sfxWrites l = { s.sfxWrites l with q := q } := by
  induction l generalizing s with
  | nil => rfl
  | cons w l ih =>
    have h : { s with q := q }.sfxWrite w = { s.sfxWrite w with q := q } := by
      unfold State.sfxWrite
      dsimp only
      split
      · cases w.reg <;> rfl
      · rfl
    rw [State.sfxWrites, h, ih]
    rfl

/-- An effect neither reads nor writes a sequencer (R119 item 2). -/
theorem State.sfxApply_seq (s : State) (e : SfxEffect) (q : Quad Seq) :
    { s with q := q }.sfxApply e = { s.sfxApply e with q := q } := by
  have hv := State.sfxVoices_seq (s.setG { s.g with sfxCursor := e.sfxCursor, override := e.overrideBits }) e.voices q
  exact (congrArg (fun u => u.sfxWrites e.writes) hv).trans (State.sfxWrites_seq _ _ _)

/-- Nor does the fault. -/
theorem State.sfxFault_seq (s : State) (corrupt : Option Chan) (q : Quad Seq) :
    { s with q := q }.sfxFault corrupt = { s.sfxFault corrupt with q := q } := by
  cases corrupt <;> rfl

/-- SFX_STEP neither reads nor writes a sequencer (R119 item 2). -/
theorem State.sfxStep_seq (s : State) (q : Quad Seq) : { s with q := q }.sfxStep = { s.sfxStep with q := q } := by
  unfold State.sfxStep
  dsimp only
  cases s.cfg.sfxStep with
  | reference => rfl
  | free n =>
    show ({ s with q := q }.sfxApply (Config.freeSfxStep n s.sfxView)).sfxFault _ = _
    rw [State.sfxApply_seq, State.sfxFault_seq]
    rfl

/-- SFX_STEP leaves every sequencer (R119 item 2). -/
theorem State.sfxStep_q (s : State) : s.sfxStep.q = s.q := by
  have h := congrArg (fun u => State.q u) (s.sfxStep_seq s.q)
  exact h

/-- A byte the layer could not decode is a CorruptSequence fault at the SFX cursor (R119 item 6). -/
theorem State.sfxFault_cases (s : State) (corrupt : Option Chan) :
    (corrupt = none ∧ s.sfxFault corrupt = s) ∨
    (∃ c, corrupt = some c ∧ s.sfxFault corrupt = s.raiseCorrupt ⟨1, c, s.g.sfxCursor, s.memRead s.g.sfxCursor⟩) := by
  cases corrupt with
  | none => exact .inl ⟨rfl, rfl⟩
  | some c => exact .inr ⟨c, rfl, rfl⟩

/-- An overridden channel has an SFX event, whatever the effect (R119 item 3). -/
theorem SfxEffect.override_active (e : SfxEffect) (c : Chan) (h : e.overrideBits.get c = true) : e.sfxCursor ≠ 0 := by
  intro h0
  simp [SfxEffect.overrideBits, h0] at h

/-- Claiming channels changes the layer's two global fields and the claimed voices. -/
theorem State.sfxClaim_form (s : State) (addr : Word) (claim : Quad Bool) :
    ∃ v, s.sfxClaim addr claim = { s with g := { s.g with override := claim, sfxCursor := addr }, v := v } ∧
      ∀ c, v.get c =
        if claim.get c then { Voice.reset c s.g.instrTable s.cfg.hiCacheReset with id := (s.voice c).id }
        else s.voice c := by
  obtain ⟨a0, a1, a2, a3⟩ := claim
  cases a0 <;> cases a1 <;> cases a2 <;> cases a3 <;>
    exact ⟨_, rfl, fun c => by cases c <;> rfl⟩

/-- A free start's claim and first settings: the layer's two global fields and the claimed voices, no write (R118). -/
theorem State.sfxClaimVoices_form (s : State) (addr : Word) (claim : Quad Bool) (e : Quad SfxVoice) :
    ∃ v, (s.sfxClaim addr claim).sfxVoices e =
        { s with g := { s.g with override := claim, sfxCursor := addr }, v := v } ∧
      ∀ c, v.get c = (s.sfxClaim addr claim).sfxVoiceOf c (e.get c) := by
  obtain ⟨v, h1, _⟩ := s.sfxClaim_form addr claim
  obtain ⟨v', h3, h4⟩ := (s.sfxClaim addr claim).sfxVoices_form e
  exact ⟨v', by rw [h3, h1], h4⟩

/-- Claiming neither reads nor writes a sequencer (R118). -/
theorem State.sfxClaim_seq (s : State) (addr : Word) (claim : Quad Bool) (q : Quad Seq) :
    { s with q := q }.sfxClaim addr claim = { s.sfxClaim addr claim with q := q } := by
  obtain ⟨a0, a1, a2, a3⟩ := claim
  cases a0 <;> cases a1 <;> cases a2 <;> cases a3 <;> rfl

/-- SFX_START neither reads nor writes a sequencer (R118, R119 item 2). -/
theorem State.sfxStart_seq (s : State) (addr : Word) (claim : Quad Bool) (q : Quad Seq) :
    { s with q := q }.sfxStart addr claim = { s.sfxStart addr claim with q := q } := by
  unfold State.sfxStart State.unlessFaulted
  dsimp only
  cases s.g.fault with
  | some r => rfl
  | none =>
    dsimp only
    split
    · rfl
    · cases s.cfg.sfxStart with
      | reference => exact congrArg (fun u => u.finishCall .ok) (State.sfxClaim_seq s addr claim q)
      | free n =>
        show ((({ s with q := q }.sfxClaim addr (Config.freeSfxStart n s.sfxView addr claim).claim).sfxVoices _).finishCall
          .ok).sfxFault _ = _
        rw [State.sfxClaim_seq, State.sfxVoices_seq]
        exact State.sfxFault_seq (State.finishCall (State.sfxVoices _ _) .ok) _ q

/-- A voice as a free start leaves it: reset and set if claimed, else unchanged. -/
theorem State.sfxClaim_voiceOf (s : State) (addr : Word) (claim : Quad Bool) (c : Chan) (f : SfxVoice) :
    (claim.get c = false → (s.sfxClaim addr claim).sfxVoiceOf c f = s.voice c) ∧
    (claim.get c = true →
      ((s.sfxClaim addr claim).sfxVoiceOf c f).id = (s.voice c).id ∧
      ((s.sfxClaim addr claim).sfxVoiceOf c f).hiCache = s.cfg.hiCacheReset ∧
      ((s.sfxClaim addr claim).sfxVoiceOf c f).phase = .idle) := by
  obtain ⟨v, h1, h2⟩ := s.sfxClaim_form addr claim
  have hv : (s.sfxClaim addr claim).voice c = v.get c := by rw [h1]; rfl
  have hg : (s.sfxClaim addr claim).g.override = claim := by rw [h1]
  have hk : (s.sfxClaim addr claim).cfg = s.cfg := by rw [h1]
  have hp : ∀ x : Voice, x.phase = .idle → (x.sfxFields f).phase = .idle := by
    intro x hx
    simp only [Voice.sfxFields, hx]
    cases f.phase <;> rfl
  unfold State.sfxVoiceOf
  rw [hg, hv, hk, h2 c]
  refine ⟨fun h => ?_, fun h => ?_⟩
  · simp [h]
  · simp only [h, if_true]
    cases f.inst with
    | none => cases f.restart <;> exact ⟨rfl, rfl, hp _ rfl⟩
    | some a =>
      obtain ⟨i1, i2, i3, _⟩ := Voice.selectInstrument_frame
        ((if f.restart then { Voice.reset c (s.sfxClaim addr claim).g.instrTable s.cfg.hiCacheReset with
            id := (s.voice c).id }
          else { Voice.reset c s.g.instrTable s.cfg.hiCacheReset with id := (s.voice c).id }).sfxFields f)
        (s.sfxClaim addr claim).g.instrTable a
      refine ⟨i1.trans ?_, i3.trans ?_, i2.trans (hp _ ?_)⟩ <;> cases f.restart <;> rfl

end Sys2Proof.Machine
end

