-- ==== Sys2Proof/Laws/Decode.lean ====
section
/-! SUPPORT. The decoder: the length it takes, what it does on four bytes, the event bytes. -/

namespace Sys2Proof

theorem instrLength_pos (b : Byte) : 1 ≤ instrLength b ∧ instrLength b ≤ 4 := by
  unfold instrLength
  split <;> (try split) <;> (try split) <;> (try split) <;> omega

theorem instrLength_cases (b : Byte) :
    instrLength b = 1 ∨ instrLength b = 2 ∨ instrLength b = 3 ∨ instrLength b = 4 := by
  have := instrLength_pos b
  omega

/-- The bytes past an instruction's length do not matter to it. -/
theorem decode4_of_length_one : ∀ b : Byte, instrLength b = 1 → ∀ b1 b2 b3, decode4 b b1 b2 b3 = decode4 b 0 0 0 := by
  intro b h b1 b2 b3
  have key : ∀ b : Byte, instrLength b = 1 → b.toNat ≤ 3 ∨ 32 ≤ b.toNat := by decide
  unfold decode4
  have := key b h
  split <;> first | rfl | omega

theorem decode4_of_length_two : ∀ b : Byte, instrLength b = 2 → ∀ b1 b2 b3, decode4 b b1 b2 b3 = decode4 b b1 0 0 := by
  intro b h b1 b2 b3
  have key : ∀ b : Byte, instrLength b = 2 → b.toNat ≠ 5 ∧ b.toNat ≠ 22 ∧ (b.toNat < 14 ∨ 21 < b.toNat) := by decide
  unfold decode4
  have := key b h
  split <;> first | rfl | omega

theorem decode4_of_length_three : ∀ b : Byte, instrLength b = 3 → ∀ b1 b2 b3, decode4 b b1 b2 b3 = decode4 b b1 b2 0 := by
  intro b h b1 b2 b3
  have key : ∀ b : Byte, instrLength b = 3 → b.toNat = 5 ∨ b.toNat = 22 := by decide
  unfold decode4
  have := key b h
  split <;> first | rfl | omega

/-- On at least four bytes the decoder answers, with the instruction that begins at the first. -/
theorem decode_four (b b1 b2 b3 : Byte) (rest : List Byte) :
    decode (b :: b1 :: b2 :: b3 :: rest) =
      .ok (decode4 b b1 b2 b3, (b1 :: b2 :: b3 :: rest).drop (instrLength b - 1)) := by
  rcases instrLength_cases b with h | h | h | h
  · simp [decode, h, decode4_of_length_one b h b1 b2 b3]
  · simp [decode, h, decode4_of_length_two b h b1 b2 b3]
  · simp [decode, h, decode4_of_length_three b h b1 b2 b3]
  · simp [decode, h]

/-- The event byte of a class and a pitch is at least 0x20. -/
theorem encodeEvent_ge : ∀ (k : Fin 7) (p : BitVec 5), 32 ≤ (encodeEvent k p).toNat := by decide

theorem eventClass_encodeEvent : ∀ (k : Fin 7) (p : BitVec 5), eventClass (encodeEvent k p) = k := by decide

theorem pitch_encodeEvent : ∀ (k : Fin 7) (p : BitVec 5), (encodeEvent k p).extractLsb' 0 5 = p := by decide

theorem encodeEvent_of_byte : ∀ b : Byte, 32 ≤ b.toNat → encodeEvent (eventClass b) (b.extractLsb' 0 5) = b := by
  decide

theorem decode4_event (b b1 b2 b3 : Byte) (h : 32 ≤ b.toNat) : decode4 b b1 b2 b3 = decodeEvent b := by
  unfold decode4
  split <;> first | rfl | omega

theorem instrLength_event : ∀ b : Byte, 32 ≤ b.toNat → instrLength b = 1 := by decide

end Sys2Proof
end

