-- ==== Sys2Proof/Laws/Step.lean ====
section
/-! SUPPORT. What one step is in each phase, that every meaning answers a next state, and what the shared operations of the
bytecode commands do. -/

namespace Sys2Proof.Machine

/-! ## One step, by the phase -/

theorem step_ready {s : State} (h : s.phase = .ready) : step s = s.startCall := by
  simp only [step, State.stepPhase, h]

theorem step_visit {s : State} {e : Byte} {c : Chan} (h : s.phase = .visit e c) : step s = .next (s.visitChannel e c) := by
  simp only [step, State.stepPhase, h]

theorem step_loop {s : State} {e : Byte} {c : Chan} (h : s.phase = .loop e c) :
    step s = exec (s.instrAt (s.seq c).cursor) s := by
  simp only [step, State.stepPhase, h, State.runCommand, State.cur_of_loop h]

theorem step_fade {s : State} {e : Byte} (h : s.phase = .fade e) : step s = .next (s.finishFrame e) := by
  simp only [step, State.stepPhase, h]

/-- Every meaning answers a next state. -/
theorem exec_next (i : Instr) (s : State) : ∃ t, exec i s = .next t := by
  cases i <;> exact ⟨_, rfl⟩

/-- What a step can be, by the phase and the call taken. -/
theorem step_cases {s t : State} (h : step s = .next t) :
    (s.phase = .ready ∧ s.calls = [] ∧ t = s) ∨
    (∃ rest, s.phase = .ready ∧ s.calls = .advance :: rest ∧ t = { s with calls := rest }.startAdvance) ∨
    (∃ track region rest, s.phase = .ready ∧ s.calls = .init track region :: rest ∧
      exec (decodeHost track region) { s with calls := rest } = .next t) ∨
    (∃ addr claim rest, s.phase = .ready ∧ s.calls = .sfxStart addr claim :: rest ∧
      t = { s with calls := rest }.sfxStart addr claim) ∨
    (∃ e c, s.phase = .visit e c ∧ t = s.visitChannel e c) ∨
    (∃ e c, s.phase = .loop e c ∧ exec (s.instrAt (s.seq c).cursor) s = .next t) ∨
    (∃ e, s.phase = .fade e ∧ t = s.finishFrame e) := by
  obtain ⟨p, hp⟩ : ∃ p, s.phase = p := ⟨_, rfl⟩
  cases p with
  | ready =>
    rw [step_ready hp] at h
    unfold State.startCall at h
    split at h
    · exact .inl ⟨hp, ‹_›, by simpa using h.symm⟩
    · exact .inr (.inl ⟨_, hp, ‹_›, by simpa using h.symm⟩)
    · exact .inr (.inr (.inl ⟨_, _, _, hp, ‹_›, h⟩))
    · exact .inr (.inr (.inr (.inl ⟨_, _, _, hp, ‹_›, by simpa using h.symm⟩)))
  | visit e c =>
    rw [step_visit hp] at h
    exact .inr (.inr (.inr (.inr (.inl ⟨e, c, hp, by simpa using h.symm⟩))))
  | loop e c =>
    rw [step_loop hp] at h
    exact .inr (.inr (.inr (.inr (.inr (.inl ⟨e, c, hp, h⟩)))))
  | fade e =>
    rw [step_fade hp] at h
    exact .inr (.inr (.inr (.inr (.inr (.inr ⟨e, hp, by simpa using h.symm⟩)))))

/-- An instruction at an address of the ROM is a bytecode instruction, never a host call. -/
theorem State.instrAt_isBytecode (s : State) (a : Word) : (s.instrAt a).isBytecode = true := by
  unfold State.instrAt decode4 decodeEvent
  split <;> (try rfl)
  split <;> rfl

/-! ## Runs -/

@[simp] theorem run_zero (s : State) : run 0 s = .next s := rfl

theorem run_succ {n : Nat} {s t : State} (h : step s = .next t) : run (n + 1) s = run n t := by
  have h' : Sys2Proof.core.step s = .next t := h
  simp only [run, Host.Core.run, h']
  rfl

/-- A run that answers a next state took a first step that did. -/
theorem run_succ_inv {n : Nat} {s u : State} (h : run (n + 1) s = .next u) : ∃ t, step s = .next t ∧ run n t = .next u := by
  obtain ⟨t, ht⟩ | ⟨r, hr⟩ | ⟨r, hr⟩ : (∃ t, step s = .next t) ∨ (∃ r, step s = .fault r) ∨ ∃ r, step s = .refused r := by
    cases hs : step s with
    | next t => exact .inl ⟨t, rfl⟩
    | fault r => exact .inr (.inl ⟨r, rfl⟩)
    | refused r => exact .inr (.inr ⟨r, rfl⟩)
  · rw [run_succ ht] at h
    exact ⟨t, ht, h⟩
  · cases r
  · have h' : Sys2Proof.core.step s = .refused r := hr
    simp [run, Host.Core.run, h'] at h

/-- A run of n and then m steps. -/
theorem run_add {n m : Nat} {s t : State} (h : run n s = .next t) : run (n + m) s = run m t := by
  induction n generalizing s with
  | zero =>
    rw [run_zero] at h
    cases h
    rw [Nat.zero_add]
  | succ n ih =>
    obtain ⟨u, hu, hr⟩ := run_succ_inv h
    rw [Nat.succ_add, run_succ hu]
    exact ih hr

/-- An invariant of one step is an invariant of every run. -/
theorem run_invariant {P : State → Prop} (hstep : ∀ s t, P s → step s = .next t → P t) {n : Nat} {s t : State} (h : P s)
    (hr : run n s = .next t) : P t := by
  induction n generalizing s with
  | zero =>
    rw [run_zero] at hr
    cases hr
    exact h
  | succ n ih =>
    obtain ⟨u, hu, hr⟩ := run_succ_inv hr
    exact ih (hstep _ _ h hu) hr

/-! ## Host calls -/

theorem State.initCall_of_none {s : State} {f : State → State} (h : s.g.fault = none) :
    s.initCall f = .next ((f s).finishCall .ok) := by
  simp [State.initCall, State.unlessFaulted_of_none h]

theorem State.initCall_of_some {s : State} {f : State → State} {r : CorruptSequence} (h : s.g.fault = some r) :
    s.initCall f = .next (s.finishCall (.faulted r)) := by
  simp [State.initCall, State.unlessFaulted_of_some h]

/-! ## The shared operations of the commands -/

/-- A flag command changes the channel's cursor and flag byte, nothing else. -/
theorem State.flagCommand_eq (s : State) (n : Word) (f : Byte → Byte) :
    s.flagCommand n f =
      s.setSeq s.cur { s.seq s.cur with cursor := (s.seq s.cur).cursor + n, flags := f (s.seq s.cur).flags } := by
  simp [State.flagCommand, State.advanceCursor, State.setSeq, State.seq, State.cur]

/-- A voice command changes the channel's cursor and its voice, nothing else. -/
theorem State.voiceCommand_eq (s : State) (f : Voice → Voice) :
    s.voiceCommand f = (s.advanceCursor s.cur 2).setVoice s.cur (f (s.voice s.cur)) := rfl

/-- A sequencer command changes the channel's sequencer, nothing else. -/
theorem State.seqCommand_eq (s : State) (f : Seq → Seq) :
    s.seqCommand f = s.setSeq s.cur (f { s.seq s.cur with cursor := (s.seq s.cur).cursor + 2 }) := by
  simp [State.seqCommand, State.advanceCursor, State.setSeq, State.seq, State.cur]

/-- A loop-end changes the channel's cursor and its level's counter, nothing else. -/
theorem State.loopEnd_eq (s : State) (k : Level) (a t0 t1 : Byte) :
    s.loopEnd k a t0 t1 =
      s.setSeq s.cur
        { s.seq s.cur with
          loop := (s.seq s.cur).loop.set k (loopCount ((s.seq s.cur).loop.get k) a)
          cursor :=
            if loopJumps s.cfg.loopEndRule (loopCount ((s.seq s.cur).loop.get k) a) then
              assemble s.cfg.wordOrder t0 t1
            else (s.seq s.cur).cursor + 4 } := by
  unfold State.loopEnd
  dsimp only
  rw [State.advanceCursor_cur, State.advanceCursor_seq_same, State.advanceCursor_cfg]
  simp only [State.advanceCursor, State.setSeq, Quad.set_set]

/-- A loop-break changes the channel's sequencer, nothing else. -/
theorem State.loopBreak_eq (s : State) (k : Level) (a t0 t1 : Byte) :
    s.loopBreak k a t0 t1 =
      s.setSeq s.cur
        (if (s.seq s.cur).loop.get k = 1 then
          { s.seq s.cur with
            flags := overwriteLow (s.seq s.cur).flags a
            loop := if s.cfg.loopBreakClears then (s.seq s.cur).loop.set k 0 else (s.seq s.cur).loop
            cursor := assemble s.cfg.wordOrder t0 t1 }
         else { s.seq s.cur with cursor := (s.seq s.cur).cursor + 4 }) := by
  unfold State.loopBreak
  dsimp only
  rw [State.advanceCursor_cur, State.advanceCursor_seq_same]
  dsimp only
  split
  · simp only [State.advanceCursor, State.setSeq, Quad.set_set]
    rfl
  · rfl

/-- The counter after a loop-end, as a number (R92). -/
theorem loopCount_toNat (counter a : Byte) :
    (loopCount counter a).toNat = ((if counter.toNat = 0 then a.toNat else counter.toNat) + 255) % 256 := by
  have h : counter = 0 ↔ counter.toNat = 0 := by
    constructor
    · intro h
      simp [h]
    · intro h
      exact BitVec.eq_of_toNat_eq h
  have h1 : (1 : Byte).toNat = 1 := rfl
  unfold loopCount
  rw [BitVec.toNat_sub, h1]
  simp only [h]
  split <;> omega

theorem loopInstr_exec (k : Level) (a t0 t1 : Byte) (s : State) :
    exec (loopInstr k a t0 t1) s = .next (s.loopEnd k a t0 t1) := by
  cases k <;> rfl

theorem breakInstr_exec (k : Level) (a t0 t1 : Byte) (s : State) :
    exec (breakInstr k a t0 t1) s = .next (s.loopBreak k a t0 t1) := by
  cases k <;> rfl

end Sys2Proof.Machine
end

