-- ==== Sys2Proof/Laws/Calls.lean ====
section
/-! SUPPORT. What the parts of a host call can do: the start of an `advance()`, a channel's visit, the frames of a sustaining
note, a song init, an SFX start. -/

namespace Sys2Proof.Machine

/-- The start of an `advance()`: a faulted or suspended block returns at once, an SFX step may fault, else the frame begins
(R63, R137). -/
theorem State.startAdvance_cases (s : State) :
    (∃ r, s.g.fault = some r ∧ s.startAdvance = s.finishCall (.faulted r)) ∨
    (s.g.fault = none ∧ s.g.suspend = true ∧ s.startAdvance = s.finishCall .ok) ∨
    (s.g.fault = none ∧ s.g.suspend = false ∧ ∃ u, u = (if s.g.sfxCursor = 0 then s else s.sfxStep) ∧
      ((u.g.fault.isSome = true ∧ s.startAdvance = u) ∨ (u.g.fault = none ∧ s.startAdvance = u.beginFrame))) := by
  unfold State.startAdvance State.unlessFaulted
  cases hf : s.g.fault with
  | some r => exact .inl ⟨r, rfl, rfl⟩
  | none =>
    dsimp only
    cases hs : s.g.suspend with
    | true => exact .inr (.inl ⟨rfl, rfl, by simp⟩)
    | false =>
      refine .inr (.inr ⟨rfl, rfl, _, rfl, ?_⟩)
      generalize (if s.g.sfxCursor = 0 then s else s.sfxStep) = u
      cases hu : u.g.fault with
      | some r => exact .inl ⟨rfl, by simp⟩
      | none => exact .inr ⟨rfl, by simp⟩

/-- A frame of a sustaining note changes the channel's voice and its two countdowns, and writes what the voice update
writes (R69). -/
theorem State.sustainNote_form (s : State) (e : Byte) (c : Chan) :
    s.sustainNote c e =
      { s with
        v := s.v.set c
          (let x := if (s.voice c).hasInstr then (s.updateVoice c).voice c else s.voice c
           if (s.seq c).sustain ≤ e then x.release else x)
        q := s.q.set c { s.seq c with duration := (s.seq c).duration - e, sustain := (s.seq c).sustain - e }
        trace := if (s.voice c).hasInstr then (s.updateVoice c).trace else s.trace } := by
  have hu : ∃ x w, (if (s.voice c).hasInstr then s.updateVoice c else s) = { s with v := s.v.set c x, trace := w } ∧
      x = (if (s.voice c).hasInstr then (s.updateVoice c).voice c else s.voice c) ∧
      w = if (s.voice c).hasInstr then (s.updateVoice c).trace else s.trace := by
    split
    · obtain ⟨x, ws, h, _⟩ := s.updateVoice_form c
      exact ⟨x, _, h, by rw [h]; simp [State.voice], by rw [h]⟩
    · exact ⟨s.voice c, s.trace, by simp [State.voice], rfl, rfl⟩
  obtain ⟨x, w, h, hx, hw⟩ := hu
  unfold State.sustainNote
  rw [h, ← hx, ← hw]
  have hq : ({ s with v := s.v.set c x, trace := w } : State).seq c = s.seq c := rfl
  dsimp only
  rw [hq]
  by_cases hs : (s.seq c).sustain ≤ e
  · rw [if_pos hs, if_pos hs]
    simp only [State.releaseTrigger, State.setVoice, State.countDown, State.setSeq, State.voice, Quad.get_set_same,
      Quad.set_set]
    rfl
  · rw [if_neg hs, if_neg hs]
    rfl

/-- The visit of a channel, by what the channel is (R65, R68, R69). -/
theorem State.visitChannel_cases (s : State) (e : Byte) (c : Chan) :
    (s.g.override.get c = true ∧ s.visitChannel e c = (s.updateVoice c).leaveChannel) ∨
    (s.g.override.get c = false ∧ (s.g.mute = true ∨ (s.seq c).cursor = 0) ∧ s.visitChannel e c = s.leaveChannel) ∨
    (s.g.override.get c = false ∧ s.g.mute = false ∧ (s.seq c).cursor ≠ 0 ∧
      (((s.seq c).duration = 0 ∧ s.visitChannel e c = s.enterLoop e c) ∨
       ((s.seq c).duration ≠ 0 ∧ e < (s.seq c).duration ∧ s.visitChannel e c = (s.sustainNote c e).leaveChannel) ∨
       ((s.seq c).duration ≠ 0 ∧ ¬ e < (s.seq c).duration ∧ s.visitChannel e c = (s.sustainNote c e).enterLoop e c))) := by
  unfold State.visitChannel State.sequencer
  cases ho : s.g.override.get c with
  | true => exact .inl ⟨rfl, by simp⟩
  | false =>
    cases hm : s.g.mute with
    | true => exact .inr (.inl ⟨rfl, .inl rfl, by simp⟩)
    | false =>
      by_cases hc : (s.seq c).cursor = 0
      · exact .inr (.inl ⟨rfl, .inr hc, by simp [hc]⟩)
      · refine .inr (.inr ⟨rfl, rfl, hc, ?_⟩)
        simp only [hc, Bool.false_eq_true, if_false]
        by_cases hd : (s.seq c).duration = 0
        · exact .inl ⟨hd, if_pos hd⟩
        · rw [if_neg hd]
          by_cases he : e < (s.seq c).duration
          · exact .inr (.inl ⟨hd, he, if_pos he⟩)
          · exact .inr (.inr ⟨hd, he, if_neg he⟩)

/-- A song init resets the globals, voices and sequencers, and writes one event; it changes nothing else (R125). -/
theorem State.initSong_form (s : State) (track : Byte) :
    ∃ v q, s.initSong track =
        { s with
          g := { Global.reset s.g.fault s.g.refused with
            instrTable := if s.songPointer track = 0 then 0 else s.read16 (s.songPointer track) }
          v := v
          q := q
          trace := s.trace ++ [⟨s.cfg.regEnable, s.cfg.enableValue⟩] } ∧
      (∀ c, v.get c =
        { Voice.reset c (if s.songPointer track = 0 then 0 else s.read16 (s.songPointer track)) s.cfg.hiCacheReset with
          id := (s.voice c).id }) ∧
      ∀ c, q.get c = { Seq.reset with cursor := (q.get c).cursor } := by
  unfold State.initSong State.initChannel State.resetGlobal
  dsimp only
  by_cases h : s.songPointer track = 0
  · simp only [h, if_true]
    refine ⟨_, _, rfl, ?_, ?_⟩ <;> intro c <;> cases c <;> rfl
  · simp only [h, if_false]
    refine ⟨_, _, rfl, ?_, ?_⟩ <;> intro c <;> cases c <;> rfl

/-- An SFX start: a faulted block, a refused call, the reference version, or a free one (R118, R137, R139). -/
theorem State.sfxStart_cases (s : State) (addr : Word) (claim : Quad Bool) :
    (∃ r, s.g.fault = some r ∧ s.sfxStart addr claim = s.finishCall (.faulted r)) ∨
    (s.g.fault = none ∧ (addr = 0 ∨ anyChan claim = false) ∧
      s.sfxStart addr claim = s.refuseCall (.sfxStart addr claim)) ∨
    (s.g.fault = none ∧ addr ≠ 0 ∧ anyChan claim = true ∧ s.cfg.sfxStart = .reference ∧
      s.sfxStart addr claim = (s.sfxClaim addr claim).finishCall .ok) ∨
    (∃ n, s.g.fault = none ∧ addr ≠ 0 ∧ anyChan claim = true ∧ s.cfg.sfxStart = .free n ∧
      ∃ e, e = Config.freeSfxStart n s.sfxView addr claim ∧
        s.sfxStart addr claim = (((s.sfxClaim addr e.claim).sfxVoices e.voices).finishCall .ok).sfxFault e.corrupt) := by
  unfold State.sfxStart State.unlessFaulted
  cases hf : s.g.fault with
  | some r => exact .inl ⟨r, rfl, rfl⟩
  | none =>
    dsimp only
    by_cases h : addr = 0 ∨ anyChan claim = false
    · exact .inr (.inl ⟨rfl, h, if_pos h⟩)
    · rw [if_neg h]
      obtain ⟨ha, hc⟩ := not_or.mp h
      simp only [Bool.not_eq_false] at hc
      cases hk : s.cfg.sfxStart with
      | reference => exact .inr (.inr (.inl ⟨rfl, ha, hc, rfl, rfl⟩))
      | free n => exact .inr (.inr (.inr ⟨n, rfl, ha, hc, rfl, _, rfl, rfl⟩))

end Sys2Proof.Machine
end

