-- ==== Sys2Proof/Laws/Fields.lean ====
section
/-! SUPPORT. What each operand form and flag operation does, bit by bit or as a number. -/

namespace Sys2Proof.Machine

/-- A bit of two fields put side by side. -/
theorem getLsbD_cat {n m : Nat} (x : BitVec n) (y : BitVec m) (j : Nat) :
    (x ++ y).getLsbD j = if j < m then y.getLsbD j else x.getLsbD (j - m) :=
  BitVec.getLsbD_append

/-- R12: the value of an assembled word. -/
theorem assemble_toNat (o : WordOrder) (x y : Byte) :
    (assemble o x y).toNat =
      match o with
      | .hiFirst => x.toNat * 256 + y.toNat
      | .loFirst => y.toNat * 256 + x.toNat := by
  cases o <;> simp only [assemble] <;> rw [BitVec.toNat_append] <;> (have := x.isLt; have := y.isLt)
  · rw [← Nat.shiftLeft_add_eq_or_of_lt (by omega), Nat.shiftLeft_eq]
  · rw [← Nat.shiftLeft_add_eq_or_of_lt (by omega), Nat.shiftLeft_eq]

theorem toggleTriplet_bit (f : Byte) (j : Nat) (h : j < 8) :
    (toggleTriplet f).getLsbD j = if j = 0 then !f.getLsbD j else f.getLsbD j := by
  interval_cases j <;> simp [toggleTriplet]

theorem toggleTie_bit (f : Byte) (j : Nat) (h : j < 8) :
    (toggleTie f).getLsbD j = if j = 1 then !f.getLsbD j else f.getLsbD j := by
  interval_cases j <;> simp [toggleTie]

theorem toggle15va_bit (f : Byte) (j : Nat) (h : j < 8) :
    (toggle15va f).getLsbD j = if j = 3 then !f.getLsbD j else f.getLsbD j := by
  interval_cases j <;> simp [toggle15va]

theorem setDot_bit (f : Byte) (j : Nat) (h : j < 8) :
    (setDot f).getLsbD j = (decide (j = 2) || f.getLsbD j) := by
  interval_cases j <;> simp [setDot]

theorem clearDot_bit (f : Byte) (j : Nat) (h : j < 8) :
    (clearDot f).getLsbD j = (decide (j ≠ 2) && f.getLsbD j) := by
  interval_cases j <;> simp [clearDot]

theorem overwriteLow_bit (f a : Byte) (j : Nat) (h : j < 8) :
    (overwriteLow f a).getLsbD j = if j < 4 then a.getLsbD j else f.getLsbD j := by
  unfold overwriteLow
  rw [getLsbD_cat, BitVec.getLsbD_extractLsb', BitVec.getLsbD_extractLsb']
  split
  · simp [*]
  · rw [show 4 + (j - 4) = j by omega, decide_eq_true (by omega), Bool.true_and]

theorem setOctave_bit (f a : Byte) (j : Nat) (h : j < 8) :
    (setOctave f a).getLsbD j = if 4 ≤ j ∧ j < 7 then a.getLsbD (j - 4) else f.getLsbD j := by
  unfold setOctave
  rw [getLsbD_cat, getLsbD_cat, BitVec.getLsbD_extractLsb', BitVec.getLsbD_extractLsb', BitVec.getLsbD_extractLsb']
  interval_cases j <;> simp

theorem mergeVolume_bit (x a : Byte) (j : Nat) (h : j < 8) :
    (mergeVolume x a).getLsbD j = if j < 4 then a.getLsbD j else if j < 6 then true else x.getLsbD j := by
  unfold mergeVolume
  rw [getLsbD_cat, getLsbD_cat, BitVec.getLsbD_extractLsb', BitVec.getLsbD_extractLsb']
  interval_cases j <;> simp

theorem mergeDuty_bit (x a : Byte) (j : Nat) (h : j < 8) :
    (mergeDuty x a).getLsbD j = if 6 ≤ j then a.getLsbD j else x.getLsbD j := by
  unfold mergeDuty
  rw [getLsbD_cat, BitVec.getLsbD_extractLsb', BitVec.getLsbD_extractLsb']
  interval_cases j <;> simp

/-- R103: the volume byte keeps the duty and marker bits. -/
theorem volumeByte_toNat (x : Byte) (v : Nibble) : (volumeByte x v).toNat = x.toNat / 16 * 16 + v.toNat := by
  unfold volumeByte
  rw [BitVec.toNat_append]
  have := v.isLt
  have := x.isLt
  rw [← Nat.shiftLeft_add_eq_or_of_lt (by omega), Nat.shiftLeft_eq, BitVec.extractLsb'_toNat, Nat.shiftRight_eq_div_pow]
  omega

theorem portaMagnitude_eq_zero (a : Byte) : portaMagnitude a = 0 ↔ a.toNat % 128 = 0 := by
  revert a
  decide

/-- R109: the glide step is twice the magnitude. -/
theorem portaStep_toNat (a : Byte) : (portaStep a).toNat = 2 * (portaMagnitude a).toNat := by
  have := (portaMagnitude a).isLt
  simp only [portaStep, BitVec.toNat_ofNat]
  omega

theorem low14_toNat (p : Word) : (low14 p).toNat = p.toNat % 0x4000 := by
  simp [low14]

/-- R71: the dot extension. -/
theorem dotted_toNat (d : Byte) : (dotted d).toNat = (d.toNat + d.toNat / 2) % 256 := by
  simp [dotted, BitVec.toNat_add, Nat.shiftRight_eq_div_pow]

/-- R73: the gate formula is at least 1. -/
theorem gateSustain_toNat (g d : Byte) : (gateSustain g d).toNat = max 1 (g.toNat * d.toNat / 256) := by
  have hp : g.toNat * d.toNat ≤ 255 * 255 := Nat.mul_le_mul (by omega) (by omega)
  unfold gateSustain
  simp only [BitVec.toNat_ofNat]
  split <;> omega

/-- R74: the note number is at most 95. -/
theorem absoluteNote_val (o g t : Byte) (p : BitVec 5) (h : p ≠ 0) :
    (absoluteNote o g t p).val = min ((o.toNat + (p.toNat - 1) + g.toNat + t.toNat) % 256) 95 := by
  have : p.toNat ≠ 0 := fun h0 => h (BitVec.eq_of_toNat_eq h0)
  have := p.isLt
  have : (1 : BitVec 8).toNat = 1 := rfl
  simp only [absoluteNote, BitVec.toNat_add, BitVec.toNat_sub, BitVec.truncate_eq_setWidth, BitVec.toNat_setWidth]
  omega

/-- R28: the octave-table index is the 15va flag over the octave. -/
theorem octaveIndex_toNat (f : Byte) :
    (octaveIndex f).toNat = (if f.getLsbD 3 then 8 else 0) + f.toNat / 16 % 8 := by
  revert f
  decide

end Sys2Proof.Machine
end

