-- ==== Sys2Proof/Laws/Memory.lean ====
section
/-! SUPPORT. The ROM image: a placed byte is read back and no other changes, placing keeps the canonical form, equal canonical
images are equal data, and no operation of the block changes a byte (R38). -/

namespace Sys2Proof.Machine

theorem Rom.at_place (m : Rom) (a : Nat) (b : Byte) (h : Rom.wfFrom lo m = true) (x : Nat) :
    (m.place a b).at x = if x = a then b else m.at x := by
  induction m generalizing lo with
  | nil =>
    unfold Rom.place
    by_cases hx : x = a
    · subst hx
      split <;> simp_all [Rom.at]
    · split <;> simp [Rom.at, Ne.symm hx]
  | cons p m ih =>
    obtain ⟨k, y⟩ := p
    simp only [Rom.wfFrom, Bool.and_eq_true, decide_eq_true_eq] at h
    have low : ∀ {l : Nat} {m : Rom}, Rom.wfFrom l m = true → ∀ z, z < l → m.at z = Rom.unlisted := by
      intro l m
      induction m generalizing l with
      | nil => intros; rfl
      | cons p m ih =>
        obtain ⟨k, y⟩ := p
        simp only [Rom.wfFrom, Bool.and_eq_true, decide_eq_true_eq]
        intro h z hz
        rw [Rom.at, if_neg (by omega)]
        exact ih h.2 z (by omega)
    unfold Rom.place
    split
    · split
      · by_cases hx : x = a
        · subst hx
          rw [Rom.at, if_neg (by omega), low h.2 x (by omega)]
          simp [*]
        · simp [hx]
      · rw [Rom.at]
        by_cases hx : x = a
        · simp [hx]
        · simp [hx, Ne.symm hx]
    · split
      · subst a
        split
        · by_cases hx : x = k
          · subst hx
            simp [low h.2 x (by omega), *]
          · simp [Rom.at, hx, Ne.symm hx]
        · simp only [Rom.at]
          by_cases hx : x = k
          · simp [hx]
          · simp [hx, Ne.symm hx]
      · simp only [Rom.at]
        rw [ih h.2]
        by_cases hk : k = x
        · subst hk
          rw [if_pos rfl, if_pos rfl, if_neg (by omega)]
        · simp [hk]

theorem Rom.wfFrom_place (m : Rom) (lo a : Nat) (b : Byte) (h : Rom.wfFrom lo m = true) (hlo : lo ≤ a)
    (ha : a < 65536) : Rom.wfFrom lo (m.place a b) = true := by
  have weaken : ∀ {l l' : Nat} {m : Rom}, l' ≤ l → Rom.wfFrom l m = true → Rom.wfFrom l' m = true := by
    intro l l' m hl hm
    cases m with
    | nil => rfl
    | cons p m =>
      obtain ⟨k, y⟩ := p
      simp only [Rom.wfFrom, Bool.and_eq_true, decide_eq_true_eq] at hm ⊢
      exact ⟨⟨⟨by omega, hm.1.1.2⟩, hm.1.2⟩, hm.2⟩
  induction m generalizing lo with
  | nil =>
    unfold Rom.place
    split
    · rfl
    · simp_all [Rom.wfFrom]
  | cons p m ih =>
    obtain ⟨k, y⟩ := p
    simp only [Rom.wfFrom, Bool.and_eq_true, decide_eq_true_eq] at h
    unfold Rom.place
    split
    · split
      · simp only [Rom.wfFrom, Bool.and_eq_true, decide_eq_true_eq]
        exact h
      · simp only [Rom.wfFrom, Bool.and_eq_true, decide_eq_true_eq]
        exact ⟨⟨⟨hlo, ha⟩, by simpa⟩, ⟨⟨by omega, h.1.1.2⟩, h.1.2⟩, h.2⟩
    · split
      · split
        · exact weaken (by omega) h.2
        · simp only [Rom.wfFrom, Bool.and_eq_true, decide_eq_true_eq]
          subst a
          exact ⟨⟨⟨hlo, ha⟩, by simpa⟩, h.2⟩
      · simp only [Rom.wfFrom, Bool.and_eq_true, decide_eq_true_eq]
        exact ⟨h.1, ih (k + 1) h.2 (by omega)⟩

/-- Placing a byte keeps the canonical form. -/
theorem Rom.wf_place (m : Rom) (a : Nat) (b : Byte) (h : m.wf = true) (ha : a < 65536) : (m.place a b).wf = true :=
  Rom.wfFrom_place m 0 a b h (Nat.zero_le a) ha

/-- A placed byte is read back, every other address reads as before. -/
theorem Rom.at_place_of_wf (m : Rom) (a : Nat) (b : Byte) (h : m.wf = true) (x : Nat) :
    (m.place a b).at x = if x = a then b else m.at x :=
  Rom.at_place (lo := 0) m a b h x

/-- Placing a list of bytes keeps the canonical form. -/
theorem Rom.wf_placeAll (bs : List Byte) (m : Rom) (a : Word) (h : m.wf = true) : (m.placeAll a bs).wf = true := by
  induction bs generalizing m a with
  | nil => exact h
  | cons b bs ih => exact ih _ _ (Rom.wf_place m a.toNat b h a.isLt)

/-- Storing an instruction where the step fetches keeps the canonical form of the ROM. -/
theorem State.withFetchWord_wf (s : State) (nbits w : Nat) (h : s.rom.wf = true) :
    (s.withFetchWord nbits w).rom.wf = true := by
  unfold State.withFetchWord State.placeWord
  split
  · exact h
  · exact Rom.wf_placeAll _ _ _ h

theorem State.reset_rom_wf : State.reset.rom.wf = true := rfl

end Sys2Proof.Machine
end

