-- ==== Sys2Proof/Laws/PerInstr.lean ====
section
/-! SUPPORT. A law of every instruction as syntax: the bytes it is written as are as many as its first byte tells (R56, R57), and
an instruction is written as bytecode exactly when it is one of the track's, else as an `init` call (R59). -/

namespace Sys2Proof.Laws

/-- The words of an instruction: a track's instruction is bytes, as many as its first byte tells, and any other is an `init`
call (R57, R59). -/
def EncodingLength.Statement (i : Instr) : Prop :=
  match encode i with
  | .bytecode bytes => i.isBytecode = true ∧ ∃ b rest, bytes = b :: rest ∧ bytes.length = instrLength b
  | .initCall _ _ => i.isBytecode = false

theorem EncodingLength.triplet : EncodingLength.Statement .triplet := ⟨rfl, _, _, rfl, rfl⟩

theorem EncodingLength.tie : EncodingLength.Statement .tie := ⟨rfl, _, _, rfl, rfl⟩

theorem EncodingLength.dot : EncodingLength.Statement .dot := ⟨rfl, _, _, rfl, rfl⟩

theorem EncodingLength.oct15va : EncodingLength.Statement .oct15va := ⟨rfl, _, _, rfl, rfl⟩

theorem EncodingLength.flags (a : Byte) : EncodingLength.Statement (.flags a) := ⟨rfl, _, _, rfl, rfl⟩

theorem EncodingLength.tempo (w0 w1 : Byte) : EncodingLength.Statement (.tempo w0 w1) := ⟨rfl, _, _, rfl, rfl⟩

theorem EncodingLength.gate (a : Byte) : EncodingLength.Statement (.gate a) := ⟨rfl, _, _, rfl, rfl⟩

theorem EncodingLength.vol (a : Byte) : EncodingLength.Statement (.vol a) := ⟨rfl, _, _, rfl, rfl⟩

theorem EncodingLength.inst (a : Byte) : EncodingLength.Statement (.inst a) := ⟨rfl, _, _, rfl, rfl⟩

theorem EncodingLength.oct (a : Byte) : EncodingLength.Statement (.oct a) := ⟨rfl, _, _, rfl, rfl⟩

theorem EncodingLength.gtrans (a : Byte) : EncodingLength.Statement (.gtrans a) := ⟨rfl, _, _, rfl, rfl⟩

theorem EncodingLength.trans (a : Byte) : EncodingLength.Statement (.trans a) := ⟨rfl, _, _, rfl, rfl⟩

theorem EncodingLength.detune (a : Byte) : EncodingLength.Statement (.detune a) := ⟨rfl, _, _, rfl, rfl⟩

theorem EncodingLength.porta (a : Byte) : EncodingLength.Statement (.porta a) := ⟨rfl, _, _, rfl, rfl⟩

theorem EncodingLength.loop0 (a t0 t1 : Byte) : EncodingLength.Statement (.loop0 a t0 t1) := ⟨rfl, _, _, rfl, rfl⟩

theorem EncodingLength.loop1 (a t0 t1 : Byte) : EncodingLength.Statement (.loop1 a t0 t1) := ⟨rfl, _, _, rfl, rfl⟩

theorem EncodingLength.loop2 (a t0 t1 : Byte) : EncodingLength.Statement (.loop2 a t0 t1) := ⟨rfl, _, _, rfl, rfl⟩

theorem EncodingLength.loop3 (a t0 t1 : Byte) : EncodingLength.Statement (.loop3 a t0 t1) := ⟨rfl, _, _, rfl, rfl⟩

theorem EncodingLength.break0 (a t0 t1 : Byte) : EncodingLength.Statement (.break0 a t0 t1) := ⟨rfl, _, _, rfl, rfl⟩

theorem EncodingLength.break1 (a t0 t1 : Byte) : EncodingLength.Statement (.break1 a t0 t1) := ⟨rfl, _, _, rfl, rfl⟩

theorem EncodingLength.break2 (a t0 t1 : Byte) : EncodingLength.Statement (.break2 a t0 t1) := ⟨rfl, _, _, rfl, rfl⟩

theorem EncodingLength.break3 (a t0 t1 : Byte) : EncodingLength.Statement (.break3 a t0 t1) := ⟨rfl, _, _, rfl, rfl⟩

theorem EncodingLength.jump (t0 t1 : Byte) : EncodingLength.Statement (.jump t0 t1) := ⟨rfl, _, _, rfl, rfl⟩

theorem EncodingLength.halt (a : Byte) : EncodingLength.Statement (.halt a) := ⟨rfl, _, _, rfl, rfl⟩

theorem EncodingLength.duty (a : Byte) : EncodingLength.Statement (.duty a) := ⟨rfl, _, _, rfl, rfl⟩

theorem EncodingLength.ill19 (a : Byte) : EncodingLength.Statement (.ill19 a) := ⟨rfl, _, _, rfl, rfl⟩

theorem EncodingLength.ill1A1B (low : BitVec 1) (a : Byte) : EncodingLength.Statement (.ill1A1B low a) :=
  ⟨rfl, _, _, rfl, by
    have h : ∀ l : BitVec 1, 2 = instrLength (0b0001101#7 ++ l) := by decide
    exact h low⟩

theorem EncodingLength.ill1C1F (low : BitVec 2) (a : Byte) : EncodingLength.Statement (.ill1C1F low a) :=
  ⟨rfl, _, _, rfl, by
    have h : ∀ l : BitVec 2, 2 = instrLength (0b000111#6 ++ l) := by decide
    exact h low⟩

theorem EncodingLength.rest (k : Fin 7) : EncodingLength.Statement (.rest k) :=
  ⟨rfl, _, _, rfl, by
    have h : ∀ (k : Fin 7) (p : BitVec 5), 1 = instrLength (encodeEvent k p) := by decide
    exact h k 0⟩

theorem EncodingLength.note (k : Fin 7) (p : BitVec 5) : EncodingLength.Statement (.note k p) :=
  ⟨rfl, _, _, rfl, by
    have h : ∀ (k : Fin 7) (p : BitVec 5), 1 = instrLength (encodeEvent k p) := by decide
    exact h k p⟩

theorem EncodingLength.songInit (track region : Byte) : EncodingLength.Statement (.songInit track region) := rfl

theorem EncodingLength.metaF0 (region : Byte) : EncodingLength.Statement (.metaF0 region) := rfl

theorem EncodingLength.metaF1 (region : Byte) : EncodingLength.Statement (.metaF1 region) := rfl

theorem EncodingLength.metaF2 (region : Byte) : EncodingLength.Statement (.metaF2 region) := rfl

theorem EncodingLength.metaF3 (region : Byte) : EncodingLength.Statement (.metaF3 region) := rfl

theorem EncodingLength.metaF4 (region : Byte) : EncodingLength.Statement (.metaF4 region) := rfl

theorem EncodingLength.metaF5 (region : Byte) : EncodingLength.Statement (.metaF5 region) := rfl

theorem EncodingLength.metaF6 (region : Byte) : EncodingLength.Statement (.metaF6 region) := rfl

theorem EncodingLength.metaF7 (region : Byte) : EncodingLength.Statement (.metaF7 region) := rfl

theorem EncodingLength.metaUnknown (track region : Byte) : EncodingLength.Statement (.metaUnknown track region) := rfl

end Sys2Proof.Laws
end

