-- ==== Sys2Proof/Tests/Slice0.lean ====
section
/-! SUPPORT. The model's own tests: ill-formed terms refused, words written out from the encoding tables decoded, one step of
each instruction against the vectors of 95_test_vectors.md and the examples of the rules, and for each obligation with
hypotheses a state and operands that meet them. -/

namespace Sys2Proof.Tests

open Sys2Proof Sys2Proof.Machine

/-! ## Ill-formed terms -/

/-- P = 0 is a rest (R59). -/
theorem test_illformed_note : (Instr.note 3 0).wellFormed = false := by decide

/-- A song init's track is at most 0xEF (R124). -/
theorem test_illformed_songInit : (Instr.songInit 0xF0 0).wellFormed = false := by decide

/-- A refused track is at least 0xF8 (R134). -/
theorem test_illformed_metaUnknown : (Instr.metaUnknown 0xF7 0).wellFormed = false := by decide

/-! ## Decoding: words from the tables of 30_encoding.md and 47_host.md -/

theorem test_decode_flag_commands :
    decode [0x00] = .ok (.triplet, []) ∧ decode [0x01] = .ok (.tie, []) ∧ decode [0x02] = .ok (.dot, []) ∧
    decode [0x03] = .ok (.oct15va, []) ∧ decode [0x04, 0x0A] = .ok (.flags 0x0A, []) ∧
    decode [0x09, 0x03, 0x77] = .ok (.oct 0x03, [0x77]) := by decide

theorem test_decode_param_commands :
    decode [0x05, 0x01, 0x80] = .ok (.tempo 0x01 0x80, []) ∧ decode [0x06, 0xC0] = .ok (.gate 0xC0, []) ∧
    decode [0x07, 0x0C] = .ok (.vol 0x0C, []) ∧ decode [0x08, 0x03] = .ok (.inst 0x03, []) ∧
    decode [0x0A, 0x02] = .ok (.gtrans 0x02, []) ∧ decode [0x0B, 0xFE] = .ok (.trans 0xFE, []) ∧
    decode [0x0C, 0xFD] = .ok (.detune 0xFD, []) ∧ decode [0x0D, 0x80] = .ok (.porta 0x80, []) ∧
    decode [0x18, 0x40] = .ok (.duty 0x40, []) := by decide

theorem test_decode_loops :
    decode [0x0E, 0x03, 0x12, 0x34] = .ok (.loop0 0x03 0x12 0x34, []) ∧
    decode [0x0F, 0x03, 0x12, 0x34] = .ok (.loop1 0x03 0x12 0x34, []) ∧
    decode [0x10, 0x03, 0x12, 0x34] = .ok (.loop2 0x03 0x12 0x34, []) ∧
    decode [0x11, 0x03, 0x12, 0x34] = .ok (.loop3 0x03 0x12 0x34, []) := by decide

theorem test_decode_breaks :
    decode [0x12, 0x02, 0x90, 0x00] = .ok (.break0 0x02 0x90 0x00, []) ∧
    decode [0x13, 0x02, 0x90, 0x00] = .ok (.break1 0x02 0x90 0x00, []) ∧
    decode [0x14, 0x02, 0x90, 0x00] = .ok (.break2 0x02 0x90 0x00, []) ∧
    decode [0x15, 0x02, 0x90, 0x00] = .ok (.break3 0x02 0x90 0x00, []) := by decide

theorem test_decode_flow :
    decode [0x16, 0x80, 0x10] = .ok (.jump 0x80 0x10, []) ∧ decode [0x17, 0x00] = .ok (.halt 0x00, []) ∧
    decode [0x19, 0x55] = .ok (.ill19 0x55, []) ∧ decode [0x1A, 0x55] = .ok (.ill1A1B 0 0x55, []) ∧
    decode [0x1B, 0x55] = .ok (.ill1A1B 1 0x55, []) ∧ decode [0x1C, 0x55] = .ok (.ill1C1F 0 0x55, []) ∧
    decode [0x1F, 0x55] = .ok (.ill1C1F 3 0x55, []) := by decide

/-- 95_test_vectors.md 2.3: 0x61 is k = 2, P = 1; 0x40 is REST k = 1; 0xE0 is REST k = 6; 0xFF is k = 6, P = 31. -/
theorem test_decode_events :
    decode [0x61] = .ok (.note 2 1, []) ∧ decode [0x40] = .ok (.rest 1, []) ∧ decode [0xE0] = .ok (.rest 6, []) ∧
    decode [0xFF] = .ok (.note 6 31, []) ∧ decode [0x20] = .ok (.rest 0, []) := by decide

theorem test_decode_host :
    decodeHost 0x00 9 = .songInit 0x00 9 ∧ decodeHost 0xEF 9 = .songInit 0xEF 9 ∧ decodeHost 0xF0 9 = .metaF0 9 ∧
    decodeHost 0xF1 9 = .metaF1 9 ∧ decodeHost 0xF2 9 = .metaF2 9 ∧ decodeHost 0xF3 9 = .metaF3 9 ∧
    decodeHost 0xF4 9 = .metaF4 9 ∧ decodeHost 0xF5 9 = .metaF5 9 ∧ decodeHost 0xF6 9 = .metaF6 9 ∧
    decodeHost 0xF7 9 = .metaF7 9 ∧ decodeHost 0xF8 9 = .metaUnknown 0xF8 9 ∧ decodeHost 0xFF 9 = .metaUnknown 0xFF 9 := by
  decide

/-- A text that ends inside an instruction is refused by name. -/
theorem test_decode_truncated :
    decode [] = .error .noByte ∧ decode [0x05, 0x01] = .error (.truncated 0x05) ∧
    decode [0x0E, 0x03, 0x12] = .error (.truncated 0x0E) := by decide

/-! ## Test states: configuration T of 95_test_vectors.md section 0 -/

/-- Configuration T. -/
def cfgT : Cfg :=
  { Cfg.initial with
    songTableAddr := 0x8000
    trackCountPred := 1
    noteLen := #v[1, 2, 4, 8, 16, 32, 64]
    noteLenTriplet := #v[1, 2, 3, 5, 10, 21, 42]
    octaveTable := #v[0, 12, 24, 36, 48, 60, 72, 84, 24, 36, 48, 60, 72, 84, 96, 108]
    notePeriod := Vector.ofFn fun n => 0x07F0 - 0x10 * BitVec.ofNat 16 n.val
    volCombine := .reference
    tremolo := .reference
    vibMag := .reference
    triValue := .reference
    sfxStep := .reference
    sfxStart := .reference }

/-- The power-on state of configuration T, in a phase, with calls to come. -/
def bootT (ph : Phase) (calls : List HostCall) : State :=
  { State.reset with
    cfg := cfgT
    phase := ph
    calls := calls
    v := ⟨Voice.reset .i0 0 0xFF, Voice.reset .i1 0 0xFF, Voice.reset .i2 0 0xFF, Voice.reset .i3 0 0xFF⟩ }

/-- A voice at power-on. -/
def voice0 (c : Chan) : Voice := Voice.reset c 0 0xFF

/-- A sequencer whose cursor is 0x9000. -/
def seq0 : Seq := { Seq.reset with cursor := 0x9000 }

/-- Channel c runs its command loop, with E = 1, on some bytes at 0x9000. -/
def onTrack (c : Chan) (bytes : List Byte) (q : Seq) (x : Voice) : State :=
  let s := bootT (.loop 1 c) []
  { s with rom := Rom.placeAll [] 0x9000 bytes, q := s.q.set c q, v := s.v.set c x }

/-- The state after one step (log entry 12: no step stops). -/
def after (s : State) : State :=
  match step s with
  | .next t => t
  | .fault _ => s
  | .refused _ => s

/-! ## Flag commands (2.4) -/

theorem test_triplet :
    ((after (onTrack .i1 [0x00] { seq0 with flags := 0x20 } (voice0 .i1))).seq .i1).flags = 0x21 ∧
    ((after (onTrack .i1 [0x00] { seq0 with flags := 0x20 } (voice0 .i1))).seq .i1).cursor = 0x9001 := by decide

theorem test_tie : ((after (onTrack .i1 [0x01] seq0 (voice0 .i1))).seq .i1).flags = 0x02 := by decide

theorem test_dot :
    ((after (onTrack .i1 [0x02] { seq0 with flags := 0x05 } (voice0 .i1))).seq .i1).flags = 0x05 := by decide

theorem test_oct15va :
    ((after (onTrack .i1 [0x03] { seq0 with flags := 0x30 } (voice0 .i1))).seq .i1).flags = 0x38 := by decide

theorem test_flags :
    ((after (onTrack .i1 [0x04, 0xF0] { seq0 with flags := 0x2F } (voice0 .i1))).seq .i1).flags = 0x20 := by decide

theorem test_oct :
    ((after (onTrack .i1 [0x09, 0x09] { seq0 with flags := 0x72 } (voice0 .i1))).seq .i1).flags = 0x12 := by decide

/-! ## Parameter commands (2.5) -/

theorem test_tempo :
    (after (onTrack .i1 [0x05, 0x01, 0x80] seq0 (voice0 .i1))).g.tempo = 0x0180 ∧
    ((after (onTrack .i1 [0x05, 0x01, 0x80] seq0 (voice0 .i1))).seq .i1).cursor = 0x9003 := by decide

theorem test_gate : ((after (onTrack .i1 [0x06, 0xC0] seq0 (voice0 .i1))).seq .i1).gate = 0xC0 := by decide

theorem test_vol :
    ((after (onTrack .i1 [0x07, 0xF3] seq0 { voice0 .i1 with volDuty := 0x4A })).voice .i1).volDuty = 0x73 := by decide

theorem test_inst :
    ((after ((onTrack .i1 [0x08, 0x03] seq0 (voice0 .i1)).setG
      { State.reset.g with instrTable := 0x8100 })).voice .i1).instrPtr = 0x8118 := by decide

theorem test_inst_same_number :
    (after (onTrack .i1 [0x08, 0x03] seq0 { voice0 .i1 with instrNumber := 3, instrPtr := 0x8118 })).voice .i1 =
      { voice0 .i1 with instrNumber := 3, instrPtr := 0x8118, reloadPending := true, hasInstr := true } := by decide

theorem test_gtrans : (after (onTrack .i1 [0x0A, 0x02] seq0 (voice0 .i1))).g.gtrans = 0x02 := by decide

theorem test_trans : ((after (onTrack .i1 [0x0B, 0xFE] seq0 (voice0 .i1))).seq .i1).ttrans = 0xFE := by decide

theorem test_detune : ((after (onTrack .i1 [0x0C, 0xFD] seq0 (voice0 .i1))).voice .i1).detune = 0xFD := by decide

theorem test_porta_zero_magnitude :
    (after (onTrack .i1 [0x0D, 0x80] seq0 { voice0 .i1 with portaRate := 0x04, portaActive := true })).voice .i1 =
      { voice0 .i1 with portaRate := 0x80, portaActive := false } := by decide

theorem test_porta_keeps_glide :
    (after (onTrack .i1 [0x0D, 0x05] seq0 { voice0 .i1 with portaRate := 0x04, portaActive := true })).voice .i1 =
      { voice0 .i1 with portaRate := 0x05, portaActive := true } := by decide

theorem test_duty :
    ((after (onTrack .i1 [0x18, 0xFF] seq0 { voice0 .i1 with volDuty := 0x0A })).voice .i1).volDuty = 0xCA := by decide

/-! ## Control-flow commands (2.6) -/

/-- N = 3, counter 0: skip, 2. -/
theorem test_loop0_skips :
    (after (onTrack .i1 [0x0E, 0x03, 0x12, 0x34] seq0 (voice0 .i1))).seq .i1 =
      { seq0 with cursor := 0x9004, loop := ⟨2, 0, 0, 0⟩ } := by decide

/-- N = 1: jump. -/
theorem test_loop0_jumps :
    (after (onTrack .i1 [0x0E, 0x01, 0x12, 0x34] seq0 (voice0 .i1))).seq .i1 = { seq0 with cursor := 0x1234 } := by decide

/-- N = 0 reloads 0 and wraps to 255. -/
theorem test_loop1_wraps :
    (after (onTrack .i1 [0x0F, 0x00, 0x12, 0x34] seq0 (voice0 .i1))).seq .i1 =
      { seq0 with cursor := 0x9004, loop := ⟨0, 255, 0, 0⟩ } := by decide

/-- A counter 5 left by an earlier loop is used as it stands. -/
theorem test_loop2_kept :
    (after (onTrack .i1 [0x10, 0x03, 0x12, 0x34] { seq0 with loop := ⟨0, 0, 5, 0⟩ } (voice0 .i1))).seq .i1 =
      { seq0 with cursor := 0x9004, loop := ⟨0, 0, 4, 0⟩ } := by decide

/-- The last pass: counter 1 to 0, jump. -/
theorem test_loop3_jumps :
    (after (onTrack .i1 [0x11, 0x03, 0x12, 0x34] { seq0 with loop := ⟨0, 0, 0, 1⟩ } (voice0 .i1))).seq .i1 =
      { seq0 with cursor := 0x1234 } := by decide

theorem test_break0_counter_zero :
    (after (onTrack .i1 [0x12, 0x02, 0x12, 0x34] { seq0 with flags := 0x35 } (voice0 .i1))).seq .i1 =
      { seq0 with cursor := 0x9004, flags := 0x35 } := by decide

/-- loop[1] = 1, flags 0x35: flags 0x32, loop[1] = 0, the target taken. -/
theorem test_break1_fires :
    (after (onTrack .i1 [0x13, 0x02, 0x12, 0x34] { seq0 with flags := 0x35, loop := ⟨7, 1, 7, 7⟩ } (voice0 .i1))).seq .i1 =
      { seq0 with cursor := 0x1234, flags := 0x32, loop := ⟨7, 0, 7, 7⟩ } := by decide

theorem test_break2_counter_two :
    (after (onTrack .i1 [0x14, 0x02, 0x12, 0x34] { seq0 with loop := ⟨0, 0, 2, 0⟩ } (voice0 .i1))).seq .i1 =
      { seq0 with cursor := 0x9004, loop := ⟨0, 0, 2, 0⟩ } := by decide

/-- LOOP_BREAK_CLEARS false: the counter stays 1. -/
theorem test_break3_keeps_counter :
    (after { onTrack .i1 [0x15, 0x00, 0x12, 0x34] { seq0 with loop := ⟨0, 0, 0, 1⟩ } (voice0 .i1) with
      cfg := { cfgT with loopBreakClears := false } }).seq .i1 =
      { seq0 with cursor := 0x1234, loop := ⟨0, 0, 0, 1⟩ } := by decide

theorem test_jump : ((after (onTrack .i1 [0x16, 0x80, 0x10] seq0 (voice0 .i1))).seq .i1).cursor = 0x8010 := by decide

/-- LoFirst: the first byte is the low one. -/
theorem test_jump_loFirst :
    ((after { onTrack .i1 [0x16, 0x80, 0x10] seq0 (voice0 .i1) with cfg := { cfgT with wordOrder := .loFirst } }).seq .i1).cursor =
      0x1080 := by decide

theorem test_halt_triangle :
    (after (onTrack .i2 [0x17, 0x00] seq0 (voice0 .i2))).trace = [⟨0x4008, 0x00⟩] ∧
    (after (onTrack .i2 [0x17, 0x00] seq0 (voice0 .i2))).phase = .visit 1 .i1 ∧
    ((after (onTrack .i2 [0x17, 0x00] seq0 (voice0 .i2))).seq .i2).cursor = 0 := by decide

theorem test_halt_pulse :
    (after (onTrack .i0 [0x17, 0x00] seq0 (voice0 .i0))).trace = [⟨0x4000, 0x30⟩] ∧
    (after (onTrack .i0 [0x17, 0x00] seq0 (voice0 .i0))).phase = .fade 1 := by decide

/-- The fault record of R136; the cursor is past the operand. -/
theorem test_ill19 :
    (after (onTrack .i3 [0x19, 0x00] seq0 (voice0 .i3))).g.fault = some ⟨1, .i3, 0x9000, 0x19⟩ ∧
    ((after (onTrack .i3 [0x19, 0x00] seq0 (voice0 .i3))).seq .i3).cursor = 0x9002 := by decide

theorem test_ill1A1B :
    (after (onTrack .i3 [0x1B, 0x00] seq0 (voice0 .i3))).result = some (.faulted ⟨1, .i3, 0x9000, 0x1B⟩) := by decide

theorem test_ill1C1F :
    (after (onTrack .i3 [0x1E, 0x00] seq0 (voice0 .i3))).result = some (.faulted ⟨1, .i3, 0x9000, 0x1E⟩) := by decide

/-! ## Events (2.3) -/

/-- Class 2 (d = 4) on a countdown of 0xFE: 2; phase Sustain released; sentinel; dot consumed. -/
theorem test_rest :
    (after (onTrack .i1 [0x60] { seq0 with duration := 0xFE, tiedIn := true } { voice0 .i1 with phase := .sustain })).seq .i1 =
      { seq0 with cursor := 0x9001, duration := 2, sustain := 0xFF } ∧
    ((after (onTrack .i1 [0x60] seq0 { voice0 .i1 with phase := .sustain })).voice .i1).phase = .release := by decide

/-- k = 3 (d = 8) with the dot flag: 12. -/
theorem test_rest_dotted :
    (after (onTrack .i1 [0x80] { seq0 with flags := 0x04 } (voice0 .i1))).seq .i1 =
      { seq0 with cursor := 0x9001, duration := 12, sustain := 0xFF } := by decide

/-- k = 4 (d = 16), gate 0x80: sustain 8; octave 2, P = 5: note 28, period NOTE_PERIOD[28] = 0x0630; a re-trigger. -/
theorem test_note_retriggers :
    (after (onTrack .i1 [0xA5] { seq0 with gate := 0x80, flags := 0x20 } { voice0 .i1 with portaRate := 0x08 })).seq .i1 =
      { seq0 with cursor := 0x9001, gate := 0x80, flags := 0x20, duration := 16, sustain := 8 } ∧
    (after (onTrack .i1 [0xA5] { seq0 with gate := 0x80, flags := 0x20 } { voice0 .i1 with portaRate := 0x08 })).voice .i1 =
      { voice0 .i1 with portaRate := 0x08, note := 28, period := 0x0630, reloadPending := true } := by decide

/-- Tied into, portaRate 0x08: the period stays, a glide starts, no reload; the tie flag set: sustain 0xFF. -/
theorem test_note_tied :
    (after (onTrack .i1 [0xA5] { seq0 with flags := 0x22, tiedIn := true }
      { voice0 .i1 with portaRate := 0x08, period := 0x0670 })).voice .i1 =
      { voice0 .i1 with portaRate := 0x08, period := 0x0670, note := 28, portaActive := true } ∧
    ((after (onTrack .i1 [0xA5] { seq0 with flags := 0x22, tiedIn := true } (voice0 .i1))).seq .i1).sustain = 0xFF := by
  decide

/-! ## Host calls (2.10) -/

/-- A call on the power-on state of T, with ROM T's song table and header at 0x8000 and 0x8010. -/
def onCall (track region : Byte) (g : Global) : State :=
  { bootT .ready [.init track region] with
    g := g
    rom := Rom.placeAll (Rom.placeAll [] 0x8000 [0x80, 0x10, 0x00, 0x00]) 0x8010
      [0x81, 0x00, 0x82, 0x00, 0x83, 0x00, 0x84, 0x00, 0x85, 0x00] }

theorem test_songInit :
    (after (onCall 0x00 0 State.reset.g)).g.instrTable = 0x8100 ∧
    ((after (onCall 0x00 0 State.reset.g)).seq .i3).cursor = 0x8500 ∧
    (after (onCall 0x00 0 State.reset.g)).trace = [⟨0x4015, 0x0F⟩] := by decide

/-- Track 3 with TRACK_COUNT 2 is index 1, the empty song. -/
theorem test_songInit_empty :
    (after (onCall 0x03 0 { State.reset.g with tempo := 0x0100 })).g = State.reset.g ∧
    ((after (onCall 0x03 0 State.reset.g)).seq .i0).cursor = 0 := by decide

theorem test_metaF0 :
    (after (onCall 0xF0 0 State.reset.g)).trace = [⟨0x400C, 0x30⟩, ⟨0x4008, 0x00⟩, ⟨0x4004, 0x30⟩, ⟨0x4000, 0x30⟩] := by
  decide

theorem test_metaF0_muted : (after (onCall 0xF0 0 { State.reset.g with mute := true })).trace = [] := by decide

theorem test_metaF1 :
    (after (onCall 0xF1 0 { State.reset.g with sfxCursor := 0x9000, override := ⟨false, true, false, false⟩ })).g =
      State.reset.g := by decide

theorem test_metaF2 :
    (after (onCall 0xF2 0 State.reset.g)).trace = [⟨0x400C, 0x30⟩, ⟨0x4008, 0x00⟩, ⟨0x4004, 0x30⟩, ⟨0x4000, 0x30⟩] ∧
    (after (onCall 0xF2 0 State.reset.g)).g.mute = true := by decide

theorem test_metaF3 : (after (onCall 0xF3 0 State.reset.g)).g = { State.reset.g with suspend := true } := by decide

theorem test_metaF4 :
    (after (onCall 0xF4 0 { State.reset.g with suspend := true, mute := true })).g = State.reset.g := by decide

theorem test_metaF5 : (after (onCall 0xF5 0x80 State.reset.g)).g.fadeRatePending = 0x80 := by decide

theorem test_metaF6 : (after (onCall 0xF6 0 { State.reset.g with fadeRatePending := 0x80 })).g.fadeRate = 0x80 := by decide

theorem test_metaF7 :
    (after (onCall 0xF7 0 { State.reset.g with fadeRate := 0x80, fadeComplete := true })).g =
      { State.reset.g with fadeRate := 0x80, fadeCounter := 0x8000, fadeActive := true } := by decide

theorem test_metaUnknown :
    (after (onCall 0xF8 5 State.reset.g)).g.refused = some (.init 0xF8 5) ∧
    (after (onCall 0xF8 5 State.reset.g)).result = some .refused := by decide

/-- In a faulted state a call has no effect and returns Faulted. -/
theorem test_faulted_call :
    (after (onCall 0xF2 0 { State.reset.g with fault := some ⟨1, .i3, 0x8508, 0x19⟩ })).trace = [] ∧
    (after (onCall 0xF2 0 { State.reset.g with fault := some ⟨1, .i3, 0x8508, 0x19⟩ })).result =
      some (.faulted ⟨1, .i3, 0x8508, 0x19⟩) := by decide

/-! ## The engines (2.1, 2.2, 2.7 to 2.9) -/

/-- 2.1: tempo 0x0355, frac 0xC0: E = 4, frac 0x15; tempo 0xFFFF, frac 0x01: E = 0. -/
theorem test_elapsed :
    (after { bootT .ready [.advance] with g := { State.reset.g with tempo := 0x0355, frac := 0xC0 } }).phase =
      .visit 4 .i3 ∧
    (after { bootT .ready [.advance] with g := { State.reset.g with tempo := 0x0355, frac := 0xC0 } }).g.frac = 0x15 ∧
    (after { bootT .ready [.advance] with g := { State.reset.g with tempo := 0xFFFF, frac := 0x01 } }).phase =
      .visit 0 .i3 := by decide

/-- 2.2: duration 1, sustain 0xFF, E = 3: 0xFE, 0xFC, on to the command loop. -/
theorem test_sustain_overshoot :
    (after { onTrack .i1 [] { seq0 with duration := 1, sustain := 0xFF } (voice0 .i1) with phase := .visit 3 .i1 }).seq .i1 =
      { seq0 with duration := 0xFE, sustain := 0xFC } ∧
    (after { onTrack .i1 [] { seq0 with duration := 1, sustain := 0xFF } (voice0 .i1) with phase := .visit 3 .i1 }).phase =
      .loop 3 .i1 := by decide

/-- 2.7: Decay at 0x88 with record bytes -- 0F 80 --: Sustain at 0x80; Release on the triangle kind: Idle at 0. -/
theorem test_envelope :
    ({ voice0 .i1 with phase := .decay, level := 0x88 }.envelopeStep .pulse 0 0x0F 0x80 0).level = 0x80 ∧
    ({ voice0 .i1 with phase := .decay, level := 0xF0 }.envelopeStep .pulse 0 0x05 0xFF 0).level = 0xF0 ∧
    ({ voice0 .i1 with phase := .attack, level := 0xE0 }.envelopeStep .pulse 0x2C 0 0 0).level = 0xEC ∧
    ({ voice0 .i2 with phase := .release, level := 0x68 }.envelopeStep .triangle 0 0 0 0).phase = .idle := by decide

/-- 2.7: the reference functions. -/
theorem test_reference_functions :
    refVolCombine 8 7 = 4 ∧ refTremolo 12 0x80 true 0x40 = 11 ∧ refTremolo 12 0x80 false 0x40 = 10 ∧
    refTremolo 15 0xFF false 0xFF = 0 ∧ refVibMag 0xFF 0xFF = 254 ∧ refTriValue 9 = 0xFF ∧ fadeVolume 15 0x8000 = 7 := by
  decide

/-- 2.8: the LFO's overflow; 2.8: 0x4670 toward note 24 (0x0670) snaps; channel 0 at 0xFFFE slides on to 0. -/
theorem test_pitch :
    ({ voice0 .i1 with lfoPhase := 0xF0 }.lfoStep 0x20).lfoPhase = 0x10 ∧
    ({ voice0 .i1 with lfoPhase := 0xF0 }.lfoStep 0x20).lfoPolarity = true ∧
    ({ voice0 .i1 with period := 0x4670, portaRate := 0x08, portaActive := true }.glideStep 0x0670).period = 0x0670 ∧
    ({ voice0 .i1 with period := 0x0640, portaRate := 0x08, portaActive := true }.glideStep 0x0630).portaActive = false ∧
    ({ voice0 .i0 with period := 0xFFFE, portaRate := 0x01, portaActive := true }.slideStep).period = 0 := by decide

/-- 2.9: period 0x01A0, m = 3 at polarity 1, detune +2: 0x019F on channel 1, 0x019D on channel 0; 0x3FFF + 4 wraps to 3. -/
theorem test_outPeriod :
    { voice0 .i1 with period := 0x01A0, lfoPolarity := true, detune := 2 }.outPeriod .i1 3 = 0x019F ∧
    { voice0 .i0 with period := 0x01A0, lfoPolarity := true, detune := 2 }.outPeriod .i0 3 = 0x019D ∧
    { voice0 .i1 with period := 0x3FFF }.outPeriod .i1 4 = 0x0003 := by decide

/-- 2.9: the high byte is written only when it differs from the cache. -/
theorem test_periodWrite :
    (((bootT .ready []).setVoice .i1 { voice0 .i1 with period := 0x4123, hiCache := 0x01 }).periodWrite .i1).trace =
      [⟨0x4006, 0x23⟩] := by decide

/-- 2.10: SFX_START(0x9000, {1}). -/
theorem test_sfxStart :
    (after (bootT .ready [.sfxStart 0x9000 ⟨false, true, false, false⟩])).g =
      { State.reset.g with sfxCursor := 0x9000, override := ⟨false, true, false, false⟩ } ∧
    (after (bootT .ready [.sfxStart 0 ⟨false, true, false, false⟩])).result = some .refused := by decide

/-! ## The host's words -/

theorem test_withFetchWord :
    decodeTableWord 32 0x3412030E = some (.loop0 0x03 0x12 0x34) ∧
    decodeTableWord 0 0xF3 = some (.metaF3 0) ∧
    ((after (State.reset.withFetchWord 16 0xC006)).seq .i3).gate = 0xC0 ∧
    (after (State.reset.withFetchWord 0 0xF3)).g.suspend = true := by decide

/-! ## Witnesses: for each obligation with hypotheses, states and operands that meet them, at the ends of their ranges -/

/-- The power-on state of T meets the invariant, with any calls to come and a frame in no progress. -/
theorem bootT_inv (calls : List HostCall) : (bootT .ready calls).Inv where
  rom := rfl
  ids := fun c => by cases c <;> rfl
  instr := fun c => by cases c <;> rfl
  level := fun c => by cases c <;> exact Nat.zero_le 0xF0
  porta := fun c h => by cases c <;> cases h
  reserved := fun c => by cases c <;> exact (by decide : (0#8).getLsbD 7 = false)
  claimed := fun c h => by cases c <;> cases h
  fade := fun h => by cases h
  faultCode := fun _ h => by cases h
  running := fun h => absurd rfl h
  looping := fun _ _ h => by cases h

/-- Bytecode and init calls, the tracks at the ends of their ranges. -/
theorem test_witness_EncodedInstructionDecodesToItself :
    (Instr.note 6 31).wellFormed = true ∧ (Instr.note 0 1).wellFormed = true ∧ (Instr.songInit 0xEF 0).wellFormed = true ∧
    (Instr.metaUnknown 0xF8 0).wellFormed = true ∧ (Instr.metaUnknown 0xFF 0).wellFormed = true := by decide

theorem test_witness_DecodedBytesAreTheEncoding :
    decode [0x0E, 1, 2, 3, 4] = .ok (.loop0 1 2 3, [4]) ∧ decode [0xFF] = .ok (.note 6 31, []) := by decide

/-- The first bytes at which the clauses of the first-byte rule meet. -/
theorem test_witness_FirstByteHasOneMeaning :
    decode [0x03, 1, 2, 3] = .ok (.oct15va, [1, 2, 3]) ∧ decode [0x04, 1, 2, 3] = .ok (.flags 1, [2, 3]) ∧
    decode [0x0D, 1, 2, 3] = .ok (.porta 1, [2, 3]) ∧ decode [0x15, 1, 2, 3] = .ok (.break3 1 2 3, []) ∧
    decode [0x16, 1, 2, 3] = .ok (.jump 1 2, [3]) ∧ decode [0x1F, 1, 2, 3] = .ok (.ill1C1F 3 1, [2, 3]) ∧
    decode [0x20, 1, 2, 3] = .ok (.rest 0, [1, 2, 3]) := by decide

theorem test_witness_StepRunsFetchedInstruction :
    let s := onTrack .i1 [0x06, 0xC0] seq0 (voice0 .i1)
    s.phase = .loop 1 .i1 ∧
    decode [s.memRead (s.seq .i1).cursor, s.memRead ((s.seq .i1).cursor + 1), s.memRead ((s.seq .i1).cursor + 2),
      s.memRead ((s.seq .i1).cursor + 3)] = .ok (.gate 0xC0, [0x00, 0x00]) := by decide

theorem test_witness_InitCallRunsItsTrack :
    (onCall 0xEF 1 State.reset.g).phase = .ready ∧ (onCall 0xEF 1 State.reset.g).calls = .init 0xEF 1 :: [] ∧
    (onCall 0xF8 1 State.reset.g).phase = .ready ∧ (onCall 0xF8 1 State.reset.g).calls = .init 0xF8 1 :: [] ∧
    ∀ k : Fin 8, (BitVec.ofNat 8 (0xF0 + k.val)).toNat = 0xF0 + k.val := by decide

theorem test_witness_EveryStepAnswersANextState : State.reset.phase = .ready ∧ State.reset.calls = [] := ⟨rfl, rfl⟩

theorem test_witness_StepKeepsInvariant :
    (bootT .ready [.advance]).Inv ∧ ∃ t, step (bootT .ready [.advance]) = .next t := ⟨bootT_inv _, _, rfl⟩

/-- RomAndParametersNeverChange, TraceOnlyGrows. -/
theorem test_witness_runs : ∃ t, run 2 (bootT .ready [.advance]) = .next t := ⟨_, rfl⟩

theorem test_witness_BytecodeCannotReachHostState :
    ((Instr.halt 0).isBytecode = true ∧ ∃ t, exec (.halt 0) (onTrack .i2 [] seq0 (voice0 .i2)) = .next t) ∧
    (Instr.tie.isBytecode = true ∧ ∃ t, exec .tie (onTrack .i2 [] seq0 (voice0 .i2)) = .next t) :=
  ⟨⟨rfl, _, rfl⟩, rfl, _, rfl⟩

/-- A phase that goes forward, and a reload that restarts it. -/
theorem test_witness_EnvelopePhaseOnlyAdvances :
    let s := { onTrack .i1 [] { seq0 with duration := 3, sustain := 1 }
      { voice0 .i1 with phase := .decay, hasInstr := true } with phase := .visit 1 .i1 }
    let r := { onTrack .i1 [] { seq0 with duration := 3, sustain := 5 }
      { voice0 .i1 with phase := .idle, hasInstr := true, reloadPending := true } with phase := .visit 1 .i1 }
    (∃ t, step s = .next t ∧ (t.voice .i1).phase = .release) ∧ (∃ t, step r = .next t ∧ (t.voice .i1).phase = .attack) :=
  ⟨⟨_, rfl, by decide⟩, _, rfl, by decide⟩

/-- Channel 1 overridden, two frames to come. -/
theorem test_witness_ClaimedChannelIsHeld :
    let s := { bootT .ready [.advance, .advance] with
      g := { State.reset.g with sfxCursor := 0x9000, override := ⟨false, true, false, false⟩ } }
    s.Inv ∧ s.cfg.sfxStep = .reference ∧ s.g.override.get .i1 = true ∧ (∀ k ∈ s.calls, k = HostCall.advance) ∧
    ∃ t, run 3 s = .next t := by
  refine ⟨?_, rfl, rfl, by simp [bootT], _, rfl⟩
  have h := bootT_inv [.advance, .advance]
  exact { h with
    claimed := fun _ _ => by decide
    running := fun hp => absurd rfl hp
    looping := fun _ _ hp => by cases hp }

/-- Channel 1 overridden while channel 3's command loop runs, under a free layer. -/
theorem test_witness_ClaimedChannelIsHeld_in_progress :
    let s := { bootT (.loop 1 .i3) [.init 0 0] with
      cfg := { cfgT with sfxStep := .free 0 }
      g := { State.reset.g with sfxCursor := 0x9000, override := ⟨false, true, false, false⟩ } }
    s.Inv ∧ s.g.override.get .i1 = true ∧ s.phase ≠ .ready := by
  refine ⟨?_, rfl, by decide⟩
  have h := bootT_inv [.init 0 0]
  exact { h with
    claimed := fun _ _ => by decide
    running := fun _ => ⟨rfl, rfl⟩
    looping := fun _ _ hp => by cases hp; exact ⟨rfl, rfl⟩ }

theorem test_witness_FaultedBlockIsQuiescent :
    let s := { bootT .ready [.advance, .init 0xF2 0] with g := { State.reset.g with fault := some ⟨1, .i3, 0x8508, 0x19⟩ } }
    s.Inv ∧ s.g.fault = some ⟨1, .i3, 0x8508, 0x19⟩ := by
  refine ⟨?_, rfl⟩
  have h := bootT_inv [.advance, .init 0xF2 0]
  exact { h with
    faultCode := fun r hr => by
      cases hr
      rfl
    running := fun hp => absurd rfl hp }

theorem test_witness_OnlyIllegalBytesRaise :
    let s := onTrack .i3 [0x1F, 0x00] seq0 (voice0 .i3)
    s.cfg.sfxStep = .reference ∧ s.cfg.sfxStart = .reference ∧ s.g.fault = none ∧
    ∃ t, step s = .next t ∧ t.g.fault = some ⟨1, .i3, 0x9000, 0x1F⟩ := ⟨rfl, rfl, rfl, _, rfl, by decide⟩

/-- R152's two examples. -/
theorem test_witness_SelfJumpNeverReturns :
    let s := onTrack .i1 [0x16, 0x90, 0x00] seq0 (voice0 .i1)
    let r := onTrack .i1 [0x0E, 0x01, 0x90, 0x00] seq0 (voice0 .i1)
    (s.phase = .loop 1 .i1 ∧ s.instrAt (s.seq .i1).cursor = .jump 0x90 0x00 ∧
      assemble s.cfg.wordOrder 0x90 0x00 = (s.seq .i1).cursor) ∧
    (r.phase = .loop 1 .i1 ∧ r.instrAt (r.seq .i1).cursor = loopInstr .i0 1 0x90 0x00 ∧
      r.cfg.loopEndRule = .expiryJump ∧ (r.seq .i1).loop.get .i0 = 0 ∧
      assemble r.cfg.wordOrder 0x90 0x00 = (r.seq .i1).cursor) := by decide

/-- No SFX event, and an SFX event under the reference layer. -/
theorem test_witness_AdvanceYieldsElapsedTicks :
    let s := bootT .ready [.advance]
    let r := { s with g := { State.reset.g with sfxCursor := 0x9000 } }
    (s.phase = .ready ∧ s.calls = .advance :: [] ∧ s.g.fault = none ∧ s.g.suspend = false ∧ s.g.sfxCursor = 0) ∧
    (r.phase = .ready ∧ r.calls = .advance :: [] ∧ r.g.fault = none ∧ r.g.suspend = false ∧
      r.cfg.sfxStep = .reference) := by decide

/-- Overridden; muted; halted. -/
theorem test_witness_ChannelVisitsInOrder :
    let s := bootT (.visit 1 .i0) []
    let r := { s with g := { State.reset.g with sfxCursor := 0x9000, override := ⟨true, false, false, false⟩ } }
    let m := { onTrack .i0 [] seq0 (voice0 .i0) with phase := .visit 1 .i0, g := { State.reset.g with mute := true } }
    (s.phase = .visit 1 .i0 ∧ s.g.override.get .i0 = false ∧ (s.seq .i0).cursor = 0) ∧
    (r.phase = .visit 1 .i0 ∧ r.g.override.get .i0 = true) ∧
    (m.phase = .visit 1 .i0 ∧ m.g.override.get .i0 = false ∧ m.g.mute = true ∧ (m.seq .i0).cursor ≠ 0) := by decide

/-- A halted channel; no note sounding; a duration above E; a duration equal to E; a sustain equal to E. -/
theorem test_witness_SustainingNoteCountsDown :
    let s := fun (d u : Byte) => { onTrack .i1 [] { seq0 with duration := d, sustain := u } (voice0 .i1) with
      phase := .visit 2 .i1 }
    let h := bootT (.visit 2 .i1) []
    (h.phase = .visit 2 .i1 ∧ h.g.override.get .i1 = false ∧ h.g.mute = false ∧ (h.seq .i1).cursor = 0) ∧
    ∀ d ∈ [0x00#8, 0x03#8, 0x02#8], ∀ u ∈ [0x02#8, 0x03#8],
      (s d u).phase = .visit 2 .i1 ∧ (s d u).g.override.get .i1 = false ∧ (s d u).g.mute = false ∧
      ((s d u).seq .i1).cursor ≠ 0 ∧ ((s d u).seq .i1).duration = d ∧ ((s d u).seq .i1).sustain = u := by decide

/-- No fade; a countdown equal to E; a countdown above E. -/
theorem test_witness_FadeCountdownSaturates :
    let s := fun (a : Bool) (n : Word) => { bootT (.fade 5) [] with
      g := { State.reset.g with fadeActive := a, fadeCounter := n } }
    (s false 5).phase = .fade 5 ∧ (s false 5).g.fadeActive = false ∧ (s true 5).g.fadeActive = true ∧
    (s true 5).g.fadeCounter.toNat ≤ (5#8).toNat ∧ ¬ (s true 6).g.fadeCounter.toNat ≤ (5#8).toNat := by decide

/-- Idle because every channel is halted, and because muted; running and suspended. -/
theorem test_witness_IdleFrameIsSilent :
    let s := fun (m u : Bool) => { bootT .ready [.advance] with g := { State.reset.g with mute := m, suspend := u } }
    let r := { onTrack .i1 [] seq0 (voice0 .i1) with
      phase := .ready, calls := [.advance], g := { State.reset.g with mute := true } }
    (∀ u, (s false u).Idle ∧ (s false u).phase = .ready ∧ (s false u).calls = .advance :: [] ∧ (s false u).g.fault = none ∧
      (s false u).g.suspend = u) ∧
    (r.Idle ∧ r.phase = .ready ∧ r.calls = .advance :: [] ∧ r.g.fault = none ∧ (r.seq .i1).cursor ≠ 0) := by
  refine ⟨fun u => ⟨⟨rfl, ?_, .inl ?_⟩, rfl, rfl, rfl, rfl⟩, ⟨rfl, ?_, .inr rfl⟩, rfl, rfl, rfl, by decide⟩ <;>
    (intro c; cases c <;> rfl)

/-- Every phase, at the ends of the level's range. -/
theorem test_witness_EnvelopeStepByPhase (p : EnvPhase) :
    ((onTrack .i1 [] seq0 { voice0 .i1 with phase := p, level := 0xF0 }).voice .i1).phase = p ∧
    ((onTrack .i1 [] seq0 { voice0 .i1 with phase := p, level := 0xF0 }).voice .i1).level.toNat ≤ 0xF0 := by
  cases p <;> decide

/-- A level just below 16; a countdown just below 256. -/
theorem test_witness_SilentVoiceWritesVolumeZero :
    let s := onTrack .i1 [] seq0 { voice0 .i1 with level := 0x0F, volDuty := 0xBF }
    let r := { onTrack .i1 [] seq0 { voice0 .i1 with level := 0xF0 } with
      g := { State.reset.g with fadeActive := true, fadeCounter := 0x00FF } }
    (s.voice .i1).level.toNat < 16 ∧
    (r.g.fadeActive = true ∧ r.cfg.fadeChannels.get .i1 = true ∧ r.g.fadeCounter.toNat < 256) := by decide

/-- 2.8's first two glides, four updates of 16 each, which land on the target; from the first, a step past the target. -/
theorem test_witness_GlideReachesItsTarget :
    let down := onTrack .i1 [] seq0 { voice0 .i1 with period := 0x0670, note := 28, portaRate := 8, portaActive := true }
    let up := onTrack .i1 [] seq0 { voice0 .i1 with period := 0x0630, note := 24, portaRate := 8, portaActive := true }
    Four.i1 ≠ Four.i0 ∧
    (down.voice .i1).portaActive = true ∧ 2 * (portaMagnitude (down.voice .i1).portaRate).toNat = 16 ∧
    (down.voice .i1).period.toNat % 0x4000 = 0x0670 ∧
    (periodEntry down.cfg (down.voice .i1).note).toNat % 0x4000 = 0x0630 ∧ 4 * 16 ≤ 0x0670 ∧
    (up.voice .i1).portaActive = true ∧ 2 * (portaMagnitude (up.voice .i1).portaRate).toNat = 16 ∧
    (up.voice .i1).period.toNat % 0x4000 = 0x0630 ∧
    (periodEntry up.cfg (up.voice .i1).note).toNat % 0x4000 = 0x0670 ∧ 0x0630 + 4 * 16 < 0x4000 ∧
    ((max 0x0670 0x0630 - min 0x0670 0x0630) + 16 - 1) / 16 = 4 := by decide

/-- A glide with a step above its target (0x10, step 0x20) that lands on it without a wrap: 0x30 to 0x10. -/
theorem test_witness_GlideReachesItsTarget_exact :
    let s := { onTrack .i1 [] seq0 { voice0 .i1 with period := 0x0030, portaRate := 16, portaActive := true } with
      cfg := { cfgT with notePeriod := Vector.replicate 96 0x0010 } }
    (s.voice .i1).portaActive = true ∧ 2 * (portaMagnitude (s.voice .i1).portaRate).toNat = 0x20 ∧
    (s.voice .i1).period.toNat % 0x4000 = 0x30 ∧ (periodEntry s.cfg (s.voice .i1).note).toNat % 0x4000 = 0x10 ∧
    ((max 0x30 0x10 - min 0x30 0x10) + 0x20 - 1) / 0x20 * 0x20 ≤ 0x30 := by decide

/-- The portamento step where its clauses meet: inactive, equal to the target, one past it from either side, and R163's wrap
below 0 (step 0x20 from 0x0018 toward 0x0010 gives 0xFFF8, whose low 14 bits are past no target below). -/
theorem test_portamentoStep :
    let x := fun (p : Word) (a : Bool) => { voice0 .i1 with period := p, portaRate := 16, portaActive := a }
    (x 0x0018 false).glideStep 0x0010 = x 0x0018 false ∧
    (x 0x0010 true).glideStep 0x4010 = { x 0x4010 true with portaActive := false } ∧
    (x 0x0031 true).glideStep 0x0010 = x 0x0011 true ∧ (x 0x0030 true).glideStep 0x0010 = x 0x0010 false ∧
    (x 0x0010 true).glideStep 0x0031 = x 0x0030 true ∧ (x 0x0010 true).glideStep 0x0030 = x 0x0030 false ∧
    (x 0x0018 true).glideStep 0x0010 = x 0xFFF8 true := by decide

theorem test_witness_ChannelZeroSlidesForEver :
    ((onTrack .i0 [] seq0 { voice0 .i0 with portaRate := 0x82, portaActive := true }).voice .i0).portaActive = true := by
  decide

/-- The least and the greatest pitch of a note. -/
theorem test_witness_notes : (1#5 ≠ 0) ∧ (31#5 ≠ 0) := by decide

theorem test_witness_ToggleCommandsFlipOneFlag :
    ((Instr.triplet, 0x00#8, 0) ∈ [(Instr.triplet, 0x00#8, 0), (Instr.tie, 0x01#8, 1), (Instr.oct15va, 0x03#8, 3)]) ∧
    ((Instr.tie, 0x01#8, 1) ∈ [(Instr.triplet, 0x00#8, 0), (Instr.tie, 0x01#8, 1), (Instr.oct15va, 0x03#8, 3)]) ∧
    ((Instr.oct15va, 0x03#8, 3) ∈ [(Instr.triplet, 0x00#8, 0), (Instr.tie, 0x01#8, 1), (Instr.oct15va, 0x03#8, 3)]) := by
  decide

/-- A number that is new, and one that is selected already. -/
theorem test_witness_InstrumentIsSelected :
    3#8 ≠ ((onTrack .i1 [] seq0 (voice0 .i1)).voice .i1).instrNumber ∧
    0#8 = ((onTrack .i1 [] seq0 (voice0 .i1)).voice .i1).instrNumber := by decide

/-- N = 1 on its only pass; N = 255 on its last. -/
theorem test_witness_LoopJumpsOnTheLastPassOnly :
    let s := onTrack .i1 [] seq0 (voice0 .i1)
    s.cfg.loopEndRule = .expiryJump ∧ (s.seq s.cur).loop.get .i0 = 0 ∧ 0 < (1#8).toNat ∧ 254 < (255#8).toNat := by decide

/-- A counter of 1, and one of 2. -/
theorem test_witness_LoopBreakFiresOnOne :
    let s := onTrack .i1 [] { seq0 with loop := ⟨1, 2, 0, 0⟩ } (voice0 .i1)
    ((s.seq s.cur).loop.get .i0).toNat = 1 ∧ ((s.seq s.cur).loop.get .i1).toNat ≠ 1 := by decide

/-- Each family of illegal bytes, at its ends. -/
theorem test_witness_IllegalByteRaisesCorruptSequence :
    (0x1A#8).toNat = 0x1A + (0#1).toNat ∧ (0x1B#8).toNat = 0x1A + (1#1).toNat ∧ (0x1C#8).toNat = 0x1C + (0#2).toNat ∧
    (0x1F#8).toNat = 0x1C + (3#2).toNat := by decide

/-- A song, and the empty song; the last song track. -/
theorem test_witness_SongInitResetsAndLoads :
    let s := onCall 0xEF 0 State.reset.g
    (0xEF#8).toNat ≤ 0xEF ∧ s.g.fault = none ∧ s.songPointer 0x00 = 0x8010 ∧ s.songPointer 0xEF = 0 := by decide

/-- The host calls' premise, unmuted and muted. -/
theorem test_witness_host_calls :
    (onCall 0xF0 0 State.reset.g).g.fault = none ∧ (onCall 0xF0 0 State.reset.g).g.mute = false ∧
    (onCall 0xF0 0 { State.reset.g with mute := true }).g.fault = none := by decide

theorem test_witness_SilenceNowThenAdvance :
    let s := bootT .ready [.init 0xF2 0, .advance]
    s.g.fault = none ∧ s.phase = .ready ∧ s.calls = [.init 0xF2 0, .advance] := by decide

theorem test_witness_PauseAndResume :
    let s := { bootT .ready [.advance] with g := { State.reset.g with suspend := true } }
    s.g.fault = none ∧ s.phase = .ready ∧ s.calls = .advance :: [] ∧ s.g.suspend = true := by decide

theorem test_witness_UnknownTrackIsRefused :
    0xF8 ≤ (0xF8#8).toNat ∧ 0xF8 ≤ (0xFF#8).toNat ∧ (onCall 0xF8 0 State.reset.g).g.fault = none := by decide

/-- A claim; address 0; an empty claim. -/
theorem test_witness_SfxStartClaimsChannels :
    let s := fun (a : Word) (q : Quad Bool) => bootT .ready [.sfxStart a q]
    let one : Quad Bool := ⟨false, true, false, false⟩
    ((s 0x9000 one).phase = .ready ∧ (s 0x9000 one).calls = .sfxStart 0x9000 one :: [] ∧ (s 0x9000 one).g.fault = none ∧
      (0x9000#16 ≠ 0) ∧ one.get .i1 = true ∧ (s 0x9000 one).cfg.sfxStart = .reference) ∧
    ((s 0 one).calls = .sfxStart 0 one :: []) ∧
    ((s 0x9000 (Quad.fill false)).calls = .sfxStart 0x9000 (Quad.fill false) :: [] ∧
      ((Quad.fill false).get Four.i0 = false ∧ (Quad.fill false).get Four.i1 = false ∧
        (Quad.fill false).get Four.i2 = false ∧ (Quad.fill false).get Four.i3 = false)) := by decide

/-- Under a free layer: an event that claims channel 0; an advance() with it; a start. -/
theorem test_witness_SfxStepKeepsItsObligations :
    let s := { bootT .ready [.advance] with
      cfg := { cfgT with sfxStep := .free 0 }
      g := { State.reset.g with sfxCursor := 0x9000, override := ⟨true, false, false, false⟩ } }
    let one : Quad Bool := ⟨false, true, false, false⟩
    let r := { bootT .ready [.sfxStart 0x9000 one] with cfg := { cfgT with sfxStart := .free 0 } }
    (s.cfg.sfxStep = .free 0 ∧ ∀ c, s.g.override.get c = true → s.g.sfxCursor ≠ 0) ∧
    (s.phase = .ready ∧ s.calls = .advance :: [] ∧ s.g.fault = none ∧ s.g.suspend = false ∧ s.g.sfxCursor ≠ 0) ∧
    (r.phase = .ready ∧ r.calls = .sfxStart 0x9000 one :: [] ∧ r.g.fault = none ∧ (0x9000#16 ≠ 0) ∧
      one.get .i1 = true) :=
  ⟨⟨rfl, fun _ _ => by decide⟩, by decide, by decide⟩

/-- R103, R105, R106, R107: no tremolo at depth 4, one step of it at depth 0x20; the fade on channel 0, not on 3; the triangle. -/
theorem test_volumeWrite :
    let s := fun (c : Chan) (depth : Byte) (fade : Bool) =>
      { (onTrack c [] seq0 { voice0 c with instrPtr := 0x9000, level := 0xF0, volDuty := 0xBF, lfoPhase := 0xFF,
                                           lfoPolarity := false }) with
        rom := Rom.placeAll [] 0x9006 [depth]
        g := { State.reset.g with fadeActive := fade, fadeCounter := 0x8000 } }
    ((s .i0 4 false).volumeWrite .i0).trace = [⟨0x4000, 0xBF⟩] ∧
    ((s .i0 0x20 false).volumeWrite .i0).trace = [⟨0x4000, 0xBE⟩] ∧
    ((s .i0 0 true).volumeWrite .i0).trace = [⟨0x4000, 0xB7⟩] ∧
    ((s .i3 0 true).volumeWrite .i3).trace = [⟨0x400C, 0xBF⟩] ∧
    ((s .i2 0 false).volumeWrite .i2).trace = [⟨0x4008, 0xFF⟩] := by decide

end Sys2Proof.Tests
end

section
/-! PROOF of O21 (R68, R69). What a frame of a sustaining note does to each part of the state, one rule for each part, and the
visit of a sounding channel as that frame followed by its change of phase. -/

namespace Sys2Proof.Machine

/-- A countdown that wraps, as a number (R69). -/
theorem byte_sub_toNat (d e : Byte) : (d - e).toNat = (d.toNat + 256 - e.toNat) % 256 := by
  rw [BitVec.toNat_sub]
  omega

/-! ## A frame of a sustaining note, part by part -/

theorem State.sustainNote_seq_same (s : State) (c : Chan) (e : Byte) :
    (s.sustainNote c e).seq c =
      { s.seq c with duration := (s.seq c).duration - e, sustain := (s.seq c).sustain - e } := by
  simp [State.sustainNote_form, State.seq]

theorem State.sustainNote_seq_frame (s : State) (c : Chan) (e : Byte) :
    (s.sustainNote c e).seq c =
      { s.seq c with
        duration := ((s.sustainNote c e).seq c).duration, sustain := ((s.sustainNote c e).seq c).sustain } := by
  rw [State.sustainNote_seq_same]

theorem State.sustainNote_duration_toNat (s : State) (c : Chan) (e : Byte) :
    ((s.sustainNote c e).seq c).duration.toNat = ((s.seq c).duration.toNat + 256 - e.toNat) % 256 := by
  rw [State.sustainNote_seq_same, byte_sub_toNat]

theorem State.sustainNote_sustain_toNat (s : State) (c : Chan) (e : Byte) :
    ((s.sustainNote c e).seq c).sustain.toNat = ((s.seq c).sustain.toNat + 256 - e.toNat) % 256 := by
  rw [State.sustainNote_seq_same, byte_sub_toNat]

theorem State.sustainNote_onlySeq (s : State) (c : Chan) (e : Byte) : OnlySeq c s (s.sustainNote c e) := by
  intro d hd
  simp [State.sustainNote_form, State.seq, Quad.get_set_other _ _ _ _ hd]

/-- The release test and R101's trigger, with the countdown and E as numbers (R69). -/
theorem Voice.release_when_due (x : Voice) (sustain e : Byte) :
    (if sustain ≤ e then x.release else x) =
      if sustain.toNat ≤ e.toNat then { x with phase := if x.phase = .idle then .idle else .release } else x := by
  simp only [Voice.release_eq, BitVec.le_def]

/-- The voice is updated if an instrument is selected, then released if the sustain countdown is due (R69). -/
theorem State.sustainNote_voice_same (s : State) (c : Chan) (e : Byte) :
    (s.sustainNote c e).voice c =
      let x := if (s.voice c).hasInstr then (s.updateVoice c).voice c else s.voice c
      if (s.seq c).sustain.toNat ≤ e.toNat then { x with phase := if x.phase = .idle then .idle else .release }
      else x := by
  refine Eq.trans ?_ (Voice.release_when_due _ (s.seq c).sustain e)
  simp [State.sustainNote_form, State.voice]

theorem State.sustainNote_onlyVoice (s : State) (c : Chan) (e : Byte) : OnlyVoice c s (s.sustainNote c e) := by
  intro d hd
  simp [State.sustainNote_form, State.voice, Quad.get_set_other _ _ _ _ hd]

theorem State.sustainNote_trace (s : State) (c : Chan) (e : Byte) :
    (s.sustainNote c e).trace = if (s.voice c).hasInstr then (s.updateVoice c).trace else s.trace := by
  rw [State.sustainNote_form]

@[simp] theorem State.sustainNote_g (s : State) (c : Chan) (e : Byte) : (s.sustainNote c e).g = s.g := by
  rw [State.sustainNote_form]

@[simp] theorem State.sustainNote_phase (s : State) (c : Chan) (e : Byte) : (s.sustainNote c e).phase = s.phase := by
  rw [State.sustainNote_form]

theorem State.sustainNote_sameInputs (s : State) (c : Chan) (e : Byte) : SameInputs s (s.sustainNote c e) := by
  rw [State.sustainNote_form]
  exact ⟨fun _ => rfl, rfl, rfl⟩

/-! ## The visit of a channel that is neither overridden nor muted -/

/-- Where a frame goes after the visit of a sounding channel of duration d: past it, or into its command loop (R69). -/
def phaseAfterNote (e : Byte) (c : Chan) (d : Byte) : Phase :=
  if e.toNat < d.toNat then afterChannel e c else .loop e c

section Visit

variable {s : State} {e : Byte} {c : Chan} (hp : s.phase = .visit e c) (ho : s.g.override.get c = false)
  (hm : s.g.mute = false)
include ho hm

theorem State.visitChannel_eq_sequencer : s.visitChannel e c = s.sequencer e c := by
  simp [State.visitChannel, ho, hm]

theorem State.visitChannel_of_silent (hc : (s.seq c).cursor ≠ 0) (hd : (s.seq c).duration = 0) :
    s.visitChannel e c = { s with phase := .loop e c } := by
  rw [State.visitChannel_eq_sequencer ho hm, State.sequencer, if_neg hc, if_pos hd, State.enterLoop]

include hp

theorem State.visitChannel_of_halted (hc : (s.seq c).cursor = 0) :
    s.visitChannel e c = { s with phase := afterChannel e c } := by
  rw [State.visitChannel_eq_sequencer ho hm, State.sequencer, if_pos hc, State.leaveChannel_of_visit hp]

theorem State.visitChannel_of_sounding (hc : (s.seq c).cursor ≠ 0) (hd : (s.seq c).duration ≠ 0) :
    s.visitChannel e c = { s.sustainNote c e with phase := phaseAfterNote e c (s.seq c).duration } := by
  rw [State.visitChannel_eq_sequencer ho hm, State.sequencer, if_neg hc, if_neg hd, phaseAfterNote]
  by_cases he : e.toNat < (s.seq c).duration.toNat
  · rw [if_pos (BitVec.lt_def.mpr he), if_pos he,
      State.leaveChannel_of_visit ((State.sustainNote_phase s c e).trans hp)]
  · rw [if_neg (mt BitVec.lt_def.mp he), if_neg he, State.enterLoop]

end Visit

/-- Settles O21: the visit by the sequencer's three cases, the sounding one part by part. -/
theorem sustainingNoteCountsDown : Obligations.SustainingNoteCountsDown := by
  intro s e c hp ho hm
  refine ⟨s.visitChannel e c, step_visit hp, State.visitChannel_of_halted hp ho hm,
    State.visitChannel_of_silent ho hm, fun hc hd => ?_⟩
  rw [State.visitChannel_of_sounding hp ho hm hc hd]
  exact ⟨s.sustainNote_duration_toNat c e, s.sustainNote_sustain_toNat c e, s.sustainNote_seq_frame c e,
    s.sustainNote_onlySeq c e, s.sustainNote_onlyVoice c e, s.sustainNote_g c e, s.sustainNote_sameInputs c e, rfl,
    s.sustainNote_trace c e, s.sustainNote_voice_same c e⟩

end Sys2Proof.Machine
end

section
/-! PROOF of O38 and O40 (R77, R78, R80 to R82). A flag command's frame, cursor and flag byte, once for any command of the
form; each instruction then gives its own function of the flag byte, bit by bit. -/

namespace Sys2Proof.Machine

/-- Writing one sequencer leaves all else. -/
theorem State.setSeq_frameSeq (s : State) (c : Chan) (x : Seq) : FrameSeq c s (s.setSeq c x) :=
  ⟨⟨fun _ => rfl, rfl, rfl⟩, ⟨rfl, rfl, rfl⟩, rfl, rfl, fun d hd => State.setSeq_seq_other s c d x hd⟩

/-! ## A flag command, part by part -/

theorem State.flagCommand_frameSeq (s : State) (n : Word) (f : Byte → Byte) : FrameSeq s.cur s (s.flagCommand n f) := by
  rw [State.flagCommand_eq]
  exact s.setSeq_frameSeq s.cur _

theorem State.flagCommand_seq_same (s : State) (n : Word) (f : Byte → Byte) :
    (s.flagCommand n f).seq s.cur =
      { s.seq s.cur with cursor := (s.seq s.cur).cursor + n, flags := f (s.seq s.cur).flags } := by
  rw [State.flagCommand_eq, State.setSeq_seq_same]

theorem State.flagCommand_cursorMoved (s : State) (n : Word) (f : Byte → Byte) :
    CursorMoved s.cur n.toNat s (s.flagCommand n f) := by
  rw [CursorMoved, State.flagCommand_seq_same]
  exact BitVec.toNat_add _ _

/-- What an instruction that is a flag command does: its cursor and flag byte are all that changes, and a description of its
function's result bit by bit is one of the new flag byte. -/
theorem exec_flagCommand {i : Instr} {s : State} {n : Word} {f : Byte → Byte} {bit : Nat → Bool}
    (hexec : exec i s = .next (s.flagCommand n f))
    (hbit : ∀ j, j < 8 → (f (s.seq s.cur).flags).getLsbD j = bit j) :
    ∃ t, exec i s = .next t ∧ FrameSeq s.cur s t ∧ CursorMoved s.cur n.toNat s t ∧
      t.seq s.cur = { s.seq s.cur with cursor := (t.seq s.cur).cursor, flags := (t.seq s.cur).flags } ∧
      ∀ j, j < 8 → (t.seq s.cur).flags.getLsbD j = bit j := by
  refine ⟨s.flagCommand n f, hexec, s.flagCommand_frameSeq n f, s.flagCommand_cursorMoved n f, ?_, ?_⟩
  · rw [State.flagCommand_seq_same]
  · rwa [State.flagCommand_seq_same]

/-- Settles O38: each of the three is the flag command of its own toggle. -/
theorem toggleCommandsFlipOneFlag : Obligations.ToggleCommandsFlipOneFlag := by
  intro s i byte bit hmem
  simp only [List.mem_cons, List.not_mem_nil, or_false, Prod.mk.injEq] at hmem
  obtain ⟨rfl, rfl, rfl⟩ | ⟨rfl, rfl, rfl⟩ | ⟨rfl, rfl, rfl⟩ := hmem
  · exact ⟨rfl, exec_flagCommand (n := 1) rfl (toggleTriplet_bit _)⟩
  · exact ⟨rfl, exec_flagCommand (n := 1) rfl (toggleTie_bit _)⟩
  · exact ⟨rfl, exec_flagCommand (n := 1) rfl (toggle15va_bit _)⟩

/-- Settles O40: both are flag commands, FLAGS of the low nibble's overwrite, OCT of the octave's. -/
theorem flagsAndOctaveOverwriteTheirField : Obligations.FlagsAndOctaveOverwriteTheirField := by
  intro a s
  exact ⟨rfl, rfl, exec_flagCommand (n := 2) rfl (overwriteLow_bit _ a),
    exec_flagCommand (n := 2) rfl (setOctave_bit _ a)⟩

end Sys2Proof.Machine
end

section
/-! PROOF of O43 and O44 (R85, R86, R91). A voice command's frame and voice, once for any command of the form; each
instruction then gives its own setter of a voice. -/

namespace Sys2Proof.Machine

/-! ## A voice command, part by part -/

/-- Fetching from one track leaves all of the sequencers but its cursor. -/
theorem State.advanceCursor_onlyCursor (s : State) (c : Chan) (n : Word) :
    OnlyCursor c n.toNat s (s.advanceCursor c n) := by
  refine ⟨fun d hd => ?_, ?_, ?_⟩
  · rw [State.advanceCursor_seq, if_neg hd]
  · rw [CursorMoved, State.advanceCursor_seq_same]
    exact BitVec.toNat_add _ _
  · rw [State.advanceCursor_seq_same]

theorem State.voiceCommand_onlyVoice (s : State) (f : Voice → Voice) : OnlyVoice s.cur s (s.voiceCommand f) := by
  intro d hd
  rw [State.voiceCommand_eq, State.setVoice_voice_other _ _ _ _ hd, State.advanceCursor_voice]

theorem State.voiceCommand_frameVoice (s : State) (f : Voice → Voice) : FrameVoice s.cur 2 s (s.voiceCommand f) :=
  ⟨⟨fun _ => rfl, rfl, rfl⟩, ⟨rfl, rfl, rfl⟩, rfl, s.voiceCommand_onlyVoice f, s.advanceCursor_onlyCursor s.cur 2⟩

theorem State.voiceCommand_voice_same (s : State) (f : Voice → Voice) :
    (s.voiceCommand f).voice s.cur = f (s.voice s.cur) := by
  rw [State.voiceCommand_eq, State.setVoice_voice_same]

/-- What an instruction that is a voice command does: its frame, and its setter's result as the channel's voice. -/
theorem exec_voiceCommand {i : Instr} {s : State} {f : Voice → Voice} (hexec : exec i s = .next (s.voiceCommand f)) :
    ∃ t, exec i s = .next t ∧ FrameVoice s.cur 2 s t ∧ t.voice s.cur = f (s.voice s.cur) :=
  ⟨s.voiceCommand f, hexec, s.voiceCommand_frameVoice f, s.voiceCommand_voice_same f⟩

/-! ## The setter of INST -/

/-- The record of an instrument number, as a number (R33, R86). -/
theorem instrumentRecord_toNat (tab : Word) (a : Byte) :
    (tab + 8 * a.zeroExtend 16).toNat = (tab.toNat + 8 * a.toNat) % 65536 := by
  have h8 : (8 : Word).toNat = 8 := rfl
  rw [BitVec.toNat_add, BitVec.toNat_mul, h8, BitVec.zeroExtend_eq_setWidth, BitVec.toNat_setWidth]
  omega

/-- Whether or not the number changes, it is stored and a reload asked for; only the pointer depends on it (R86). -/
theorem Voice.selectInstrument_fields (x : Voice) (tab : Word) (a : Byte) :
    x.selectInstrument tab a =
      { x with instrNumber := a, instrPtr := (x.selectInstrument tab a).instrPtr, reloadPending := true,
               hasInstr := true } := by
  by_cases ha : a = x.instrNumber
  · subst ha
    rw [Voice.selectInstrument, if_pos rfl]
  · rw [Voice.selectInstrument, if_neg ha]

theorem Voice.selectInstrument_instrPtr_of_ne {x : Voice} {a : Byte} (tab : Word) (ha : a ≠ x.instrNumber) :
    (x.selectInstrument tab a).instrPtr = tab + 8 * a.zeroExtend 16 := by
  rw [Voice.selectInstrument, if_neg ha]

theorem Voice.selectInstrument_instrPtr_of_eq {x : Voice} {a : Byte} (tab : Word) (ha : a = x.instrNumber) :
    (x.selectInstrument tab a).instrPtr = x.instrPtr := by
  rw [Voice.selectInstrument, if_pos ha]

/-! ## The instructions as voice commands -/

theorem exec_vol (a : Byte) (s : State) : exec (.vol a) s = .next (s.voiceCommand (·.setVolume a)) := rfl

theorem exec_duty (a : Byte) (s : State) : exec (.duty a) s = .next (s.voiceCommand (·.setDuty a)) := rfl

theorem exec_inst (a : Byte) (s : State) :
    exec (.inst a) s = .next (s.voiceCommand (·.selectInstrument s.g.instrTable a)) := rfl

/-- Settles O43: each of the two setters is a merge, described bit by bit. -/
theorem volumeAndDutyMergeTheirField : Obligations.VolumeAndDutyMergeTheirField := by
  intro a s
  obtain ⟨t, hvol, hvolFrame, hvolVoice⟩ := exec_voiceCommand (exec_vol a s)
  obtain ⟨u, hduty, hdutyFrame, hdutyVoice⟩ := exec_voiceCommand (exec_duty a s)
  refine ⟨rfl, rfl, ⟨t, hvol, hvolFrame, ?_⟩, ⟨u, hduty, hdutyFrame, ?_⟩⟩
  · rw [hvolVoice]
    exact ⟨rfl, mergeVolume_bit _ a⟩
  · rw [hdutyVoice]
    exact ⟨rfl, mergeDuty_bit _ a⟩

/-- Settles O44: the pointer is the one part of INST's setter that asks whether the number changed. -/
theorem instrumentIsSelected : Obligations.InstrumentIsSelected := by
  intro a s
  obtain ⟨t, hinst, hframe, hvoice⟩ := exec_voiceCommand (exec_inst a s)
  refine ⟨rfl, t, hinst, hframe, ?_⟩
  rw [hvoice]
  refine ⟨Voice.selectInstrument_fields _ _ a, fun ha => ?_, Voice.selectInstrument_instrPtr_of_eq _⟩
  rw [Voice.selectInstrument_instrPtr_of_ne _ ha, instrumentRecord_toNat]

end Sys2Proof.Machine
end

section
/-! PROOF of O46 and O48 (R92, R93). A loop-end and a loop-break both write one sequencer, which gives their frame; what
they write there is read off part by part, in the spec's numbers. -/

namespace Sys2Proof.Machine

/-! ## A loop-end, part by part -/

theorem encode_loopInstr (k : Level) (a t0 t1 : Byte) :
    encode (loopInstr k a t0 t1) = .bytecode [BitVec.ofNat 8 (0x0E + k.toNat), a, t0, t1] := by
  cases k <;> rfl

theorem State.loopEnd_frameSeq (s : State) (k : Level) (a t0 t1 : Byte) : FrameSeq s.cur s (s.loopEnd k a t0 t1) := by
  rw [State.loopEnd_eq]
  exact s.setSeq_frameSeq s.cur _

theorem State.loopEnd_seq_same (s : State) (k : Level) (a t0 t1 : Byte) :
    (s.loopEnd k a t0 t1).seq s.cur =
      { s.seq s.cur with
        loop := (s.seq s.cur).loop.set k (loopCount ((s.seq s.cur).loop.get k) a)
        cursor :=
          if loopJumps s.cfg.loopEndRule (loopCount ((s.seq s.cur).loop.get k) a) then
            assemble s.cfg.wordOrder t0 t1
          else (s.seq s.cur).cursor + 4 } := by
  rw [State.loopEnd_eq, State.setSeq_seq_same]

/-- The rule that decides the jump, with the counter as a number (R92). -/
theorem loopJumps_iff (r : LoopEndRule) (n : Byte) :
    loopJumps r n = true ↔ (r = .expiryJump ∧ n.toNat = 0) ∨ (r = .classicRepeat ∧ n.toNat ≠ 0) := by
  have hzero : n = 0 ↔ n.toNat = 0 := BitVec.toNat_eq
  cases r <;> simp [loopJumps, ← hzero]

theorem State.loopEnd_counter_same (s : State) (k : Level) (a t0 t1 : Byte) :
    ((s.loopEnd k a t0 t1).seq s.cur).loop.get k = loopCount ((s.seq s.cur).loop.get k) a := by
  rw [State.loopEnd_seq_same, Quad.get_set_same]

theorem State.loopEnd_counter_other (s : State) (k j : Level) (a t0 t1 : Byte) (hj : j ≠ k) :
    ((s.loopEnd k a t0 t1).seq s.cur).loop.get j = (s.seq s.cur).loop.get j := by
  rw [State.loopEnd_seq_same, Quad.get_set_other _ _ _ _ hj]

/-- The cursor after a loop-end: the target when the counter it leaves satisfies the rule, else past the target bytes. -/
theorem State.loopEnd_cursor (s : State) (k : Level) (a t0 t1 : Byte) :
    ((s.loopEnd k a t0 t1).seq s.cur).cursor =
      if loopJumps s.cfg.loopEndRule (((s.loopEnd k a t0 t1).seq s.cur).loop.get k) then
        assemble s.cfg.wordOrder t0 t1
      else (s.seq s.cur).cursor + 4 := by
  rw [State.loopEnd_counter_same, State.loopEnd_seq_same]

/-- Settles O46: the counter by its arithmetic, the cursor by the rule's two cases. -/
theorem loopEndCountsAndJumps : Obligations.LoopEndCountsAndJumps := by
  intro k a t0 t1 s
  refine ⟨encode_loopInstr k a t0 t1, s.loopEnd k a t0 t1, loopInstr_exec k a t0 t1 s,
    s.loopEnd_frameSeq k a t0 t1, ?_, fun j hj => s.loopEnd_counter_other k j a t0 t1 hj, ?_, ?_⟩
  · rw [State.loopEnd_counter_same, loopCount_toNat]
  · rw [State.loopEnd_seq_same]
  · rw [CursorMoved, State.loopEnd_cursor]
    simp only [← loopJumps_iff]
    split
    · exact assemble_toNat _ _ _
    · exact BitVec.toNat_add _ _

/-! ## A loop-break, by its counter -/

theorem encode_breakInstr (k : Level) (a t0 t1 : Byte) :
    encode (breakInstr k a t0 t1) = .bytecode [BitVec.ofNat 8 (0x12 + k.toNat), a, t0, t1] := by
  cases k <;> rfl

theorem State.loopBreak_frameSeq (s : State) (k : Level) (a t0 t1 : Byte) :
    FrameSeq s.cur s (s.loopBreak k a t0 t1) := by
  rw [State.loopBreak_eq]
  exact s.setSeq_frameSeq s.cur _

/-- A counter that is not 1 never fires: the four bytes are skipped, nothing else happens (R93). -/
theorem State.loopBreak_of_ne_one {s : State} {k : Level} (a t0 t1 : Byte) (h : (s.seq s.cur).loop.get k ≠ 1) :
    s.loopBreak k a t0 t1 = s.advanceCursor s.cur 4 := by
  rw [State.loopBreak_eq, if_neg h, State.advanceCursor]

theorem State.loopBreak_seq_of_eq_one {s : State} {k : Level} (a t0 t1 : Byte) (h : (s.seq s.cur).loop.get k = 1) :
    (s.loopBreak k a t0 t1).seq s.cur =
      { s.seq s.cur with
        flags := overwriteLow (s.seq s.cur).flags a
        loop := if s.cfg.loopBreakClears then (s.seq s.cur).loop.set k 0 else (s.seq s.cur).loop
        cursor := assemble s.cfg.wordOrder t0 t1 } := by
  rw [State.loopBreak_eq, if_pos h, State.setSeq_seq_same]

/-- A counter cleared on a condition, read at every level. -/
theorem get_set_of_cond {α : Type} (q : Quad α) (k j : Four) (x : α) (b : Bool) :
    (if b then q.set k x else q).get j = if j = k ∧ b = true then x else q.get j := by
  cases b
  · simp
  · simp [Quad.get_set]

/-- Settles O48: by whether the counter is 1. -/
theorem loopBreakFiresOnOne : Obligations.LoopBreakFiresOnOne := by
  intro k a t0 t1 s
  refine ⟨encode_breakInstr k a t0 t1, s.loopBreak k a t0 t1, breakInstr_exec k a t0 t1 s,
    s.loopBreak_frameSeq k a t0 t1, fun hne => ?_, fun heq => ?_⟩
  · rw [State.loopBreak_of_ne_one a t0 t1 (mt BitVec.toNat_eq.mp hne)]
    exact s.advanceCursor_onlyCursor s.cur 4
  · rw [State.loopBreak_seq_of_eq_one a t0 t1 (BitVec.eq_of_toNat_eq heq)]
    exact ⟨overwriteLow_bit _ a, fun j => get_set_of_cond _ k j 0 _, assemble_toNat _ t0 t1, rfl⟩

end Sys2Proof.Machine
end

section
/-! PROOF of O50 and O51 (R95, R96, R136). The two ways the flow commands end what runs: HALT its channel's command loop, an
illegal byte the call. -/

namespace Sys2Proof.Machine

/-! ## HALT -/

theorem silenceOf_eq (k : ChKind) : silenceOf k = if k = .triangle then 0x00 else 0x30 := by
  cases k <;> rfl

theorem State.leaveChannel_sameInputs (s : State) : SameInputs s s.leaveChannel :=
  ⟨s.leaveChannel_memRead, s.leaveChannel_cfg, s.leaveChannel_calls⟩

/-- Leaving the channel in turn returns from the command loop that the phase names (R65, R70). -/
theorem State.leaveChannel_loopReturned {s u : State} (hphase : u.phase = s.phase) : LoopReturned s u.leaveChannel := by
  intro e c hloop
  rw [State.leaveChannel_of_loop (hphase.trans hloop)]

/-- What HALT does before its command loop returns: the cursor is zeroed, and the trace takes the silence write unless
muted (R95). -/
theorem exec_halt (a : Byte) (s : State) :
    exec (.halt a) s = .next (State.leaveChannel
      { s.setCursor s.cur 0 with
        trace := s.trace ++
          if s.g.mute then [] else [⟨s.cfg.regVol.get s.cur, silenceOf (s.cfg.chKind.get s.cur)⟩] }) := by
  show execHalt a s = _
  unfold execHalt
  cases s.g.mute
  · rfl
  · simp only [if_true, List.append_nil]
    rfl

/-- Settles O50: one cursor is zeroed and one write made at most, then the channel is left. -/
theorem haltSilencesItsChannel : Obligations.HaltSilencesItsChannel := by
  intro a s
  refine ⟨rfl, _, exec_halt a s, State.leaveChannel_sameInputs _, State.leaveChannel_g _, State.leaveChannel_v _,
    State.leaveChannel_result _, State.leaveChannel_loopReturned rfl, fun d hd => ?_, ?_, ?_⟩
  · rw [State.leaveChannel_seq]
    exact State.setSeq_seq_other s s.cur d _ hd
  · rw [State.leaveChannel_seq]
    exact State.setCursor_seq_same s s.cur 0
  · rw [State.leaveChannel_trace, silenceOf_eq]

/-! ## The illegal bytes -/

theorem ill1A1B_byte {b : Byte} {low : BitVec 1} (h : b.toNat = 0x1A + low.toNat) : 0b0001101#7 ++ low = b := by
  have hbyte : ∀ l : BitVec 1, (0b0001101#7 ++ l).toNat = 0x1A + l.toNat := by decide
  exact BitVec.eq_of_toNat_eq ((hbyte low).trans h.symm)

theorem ill1C1F_byte {b : Byte} {low : BitVec 2} (h : b.toNat = 0x1C + low.toNat) : 0b000111#6 ++ low = b := by
  have hbyte : ∀ l : BitVec 2, (0b000111#6 ++ l).toNat = 0x1C + l.toNat := by decide
  exact BitVec.eq_of_toNat_eq ((hbyte low).trans h.symm)

/-- Each illegal instruction is written as its byte and its operand, and raises CorruptSequence for that byte (R96). -/
theorem exec_illegal {i : Instr} {b a : Byte} (s : State)
    (h : (i = .ill19 a ∧ b = 0x19) ∨ (∃ low, i = .ill1A1B low a ∧ b.toNat = 0x1A + low.toNat) ∨
      (∃ low, i = .ill1C1F low a ∧ b.toNat = 0x1C + low.toNat)) :
    encode i = .bytecode [b, a] ∧ exec i s = .next (s.illegalByte b) := by
  obtain ⟨rfl, rfl⟩ | ⟨low, rfl, hb⟩ | ⟨low, rfl, hb⟩ := h
  · exact ⟨rfl, rfl⟩
  · rw [← ill1A1B_byte hb]
    exact ⟨rfl, rfl⟩
  · rw [← ill1C1F_byte hb]
    exact ⟨rfl, rfl⟩

/-- Raising CorruptSequence moves no cursor, so an illegal byte moves its own by the two bytes fetched (R96). -/
theorem State.illegalByte_onlyCursor (s : State) (b : Byte) : OnlyCursor s.cur 2 s (s.illegalByte b) :=
  s.advanceCursor_onlyCursor s.cur 2

/-- Settles O51: every illegal byte raises the fault in the one way. -/
theorem illegalByteRaisesCorruptSequence : Obligations.IllegalByteRaisesCorruptSequence := by
  intro i b a s h
  obtain ⟨hencode, hexec⟩ := exec_illegal s h
  exact ⟨hencode, s.illegalByte b, hexec, ⟨rfl, rfl⟩, rfl, rfl, rfl, ⟨fun _ => rfl, rfl, rfl⟩,
    s.illegalByte_onlyCursor b⟩

end Sys2Proof.Machine
end

section
/-! PROOF of O25 (R98, R100). The rate table as numbers, what each phase's step does to a voice in numbers, and which step the
envelope step takes in each phase. -/

namespace Sys2Proof.Machine

/-! ## The rate table -/

theorem rate_toNat (r : Byte) :
    (rate r).toNat =
      [0, 1, 2, 3, 4, 5, 6, 7, 8, 9, 10, 11, 12, 14, 15, 16, 18, 19, 20, 22, 24, 27, 30, 35, 40, 48, 60, 80, 126, 127,
        254, 255].getD (r.toNat % 32) 0 := by
  have hentry : ∀ i : Fin 32, rateTable[i].toNat =
      [0, 1, 2, 3, 4, 5, 6, 7, 8, 9, 10, 11, 12, 14, 15, 16, 18, 19, 20, 22, 24, 27, 30, 35, 40, 48, 60, 80, 126, 127,
        254, 255].getD i 0 := by decide
  exact hentry ⟨r.toNat % 32, Nat.mod_lt _ (by decide)⟩

/-! ## Each phase's step -/

/-- Attack in numbers: below 0xF0 the sum does not wrap (R100). -/
theorem Voice.attackStep_toNat {x : Voice} (d : Byte) (h : x.phase = .attack) :
    if x.level.toNat + d.toNat ≥ 0xF0 then
      (x.attackStep d).level.toNat = 0xF0 ∧ (x.attackStep d).phase = .decay
    else (x.attackStep d).level.toNat = x.level.toNat + d.toNat ∧ (x.attackStep d).phase = .attack := by
  unfold Voice.attackStep
  by_cases hsat : x.level.toNat + d.toNat ≥ 0xF0
  · simp only [if_pos hsat, and_true]
    rfl
  · simp only [if_neg hsat]
    exact ⟨by bv_omega, h⟩

/-- Decay in numbers: the level the phase ends on is the lesser of the two, so a level below the sustain byte stays (R100). -/
theorem Voice.decayStep_toNat {x : Voice} (d sus : Byte) (h : x.phase = .decay) :
    if d.toNat = 0 then x.decayStep d sus = x
    else if (x.level.toNat : Int) - d.toNat ≤ sus.toNat then
      (x.decayStep d sus).level.toNat = min x.level.toNat sus.toNat ∧ (x.decayStep d sus).phase = .sustain
    else (x.decayStep d sus).level.toNat = x.level.toNat - d.toNat ∧ (x.decayStep d sus).phase = .decay := by
  unfold Voice.decayStep
  by_cases hzero : d.toNat = 0
  · simp only [if_pos hzero, if_pos (BitVec.eq_of_toNat_eq hzero : d = 0)]
  · have hd : d ≠ 0 := fun he => hzero (congrArg BitVec.toNat he)
    simp only [if_neg hzero, if_neg hd]
    by_cases hend : (x.level.toNat : Int) - d.toNat ≤ sus.toNat
    · simp only [if_pos hend, and_true]
      split <;> bv_omega
    · simp only [if_neg hend]
      exact ⟨by bv_omega, h⟩

/-- Release in numbers (R100). -/
theorem Voice.releaseStep_toNat {x : Voice} (kind : ChKind) (d : Byte) (h : x.phase = .release) :
    if kind = .triangle then (x.releaseStep kind d).level = 0 ∧ (x.releaseStep kind d).phase = .idle
    else if d.toNat = 0 then x.releaseStep kind d = x
    else if x.level.toNat ≤ d.toNat then (x.releaseStep kind d).level = 0 ∧ (x.releaseStep kind d).phase = .idle
    else (x.releaseStep kind d).level.toNat = x.level.toNat - d.toNat ∧ (x.releaseStep kind d).phase = .release := by
  by_cases htri : kind = .triangle
  · subst htri
    exact ⟨rfl, rfl⟩
  · have hstep : x.releaseStep kind d =
        if d = 0 then x
        else if x.level ≤ d then { x with level := 0, phase := .idle }
        else { x with level := x.level - d } := by
      cases kind
      · rfl
      · exact absurd rfl htri
      · rfl
    rw [if_neg htri, hstep]
    by_cases hzero : d.toNat = 0
    · simp only [if_pos hzero, if_pos (BitVec.eq_of_toNat_eq hzero : d = 0)]
    · have hd : d ≠ 0 := fun he => hzero (congrArg BitVec.toNat he)
      simp only [if_neg hzero, if_neg hd]
      by_cases hend : x.level.toNat ≤ d.toNat
      · simp only [if_pos hend, if_pos (BitVec.le_def.mpr hend), and_true]
      · simp only [if_neg hend, if_neg (mt BitVec.le_def.mp hend)]
        exact ⟨by bv_omega, h⟩

/-! ## The step each phase takes -/

section Phase
variable {x : Voice} (kind : ChKind) (r0 r1 r2 r3 : Byte)

theorem Voice.envelopeStep_attack (h : x.phase = .attack) :
    x.envelopeStep kind r0 r1 r2 r3 = x.attackStep (rate r0) := by
  simp only [Voice.envelopeStep, h]

theorem Voice.envelopeStep_decay (h : x.phase = .decay) :
    x.envelopeStep kind r0 r1 r2 r3 = x.decayStep (rate r1) r2 := by
  simp only [Voice.envelopeStep, h]

theorem Voice.envelopeStep_sustain (h : x.phase = .sustain) : x.envelopeStep kind r0 r1 r2 r3 = x := by
  simp only [Voice.envelopeStep, h]

theorem Voice.envelopeStep_release (h : x.phase = .release) :
    x.envelopeStep kind r0 r1 r2 r3 = x.releaseStep kind (rate r3) := by
  simp only [Voice.envelopeStep, h]

theorem Voice.envelopeStep_idle (h : x.phase = .idle) : x.envelopeStep kind r0 r1 r2 r3 = x := by
  simp only [Voice.envelopeStep, h]

end Phase

/-- The envelope step of a channel is its voice's, with the record's rates (R100). -/
theorem State.envelopeStep_voice (s : State) (c : Chan) :
    (s.envelopeStep c).voice c =
      (s.voice c).envelopeStep (s.cfg.chKind.get c) (s.ir c 0) (s.ir c 1) (s.ir c 2) (s.ir c 3) :=
  State.setVoice_voice_same s c _

/-- Settles O25: the phase picks the voice's step, and each step is known in numbers. -/
theorem envelopeStepByPhase : Obligations.EnvelopeStepByPhase := by
  intro s c
  simp only [State.envelopeStep_voice, ← rate_toNat]
  refine ⟨rfl, Voice.envelopeStep_frame .., fun h => ?attack, fun h => ?decay, fun h => ?sustain, fun h => ?release,
    fun h => ?idle⟩
  case attack =>
    rw [Voice.envelopeStep_attack _ _ _ _ _ h]
    exact Voice.attackStep_toNat _ h
  case decay =>
    rw [Voice.envelopeStep_decay _ _ _ _ _ h]
    exact Voice.decayStep_toNat _ _ h
  case sustain => exact Voice.envelopeStep_sustain _ _ _ _ _ h
  case release =>
    rw [Voice.envelopeStep_release _ _ _ _ _ h]
    exact Voice.releaseStep_toNat _ _ h
  case idle => exact Voice.envelopeStep_idle _ _ _ _ _ h

end Sys2Proof.Machine
end

section
/-! PROOF of O53 and O55 to O57 (R126, R127, R129 to R134). A meta-command that only rewrites the globals has one frame, proved
once; each such command then gives its new globals. Stop all adds the cursors and the silence writes, a refusal its mark. -/

namespace Sys2Proof.Machine

/-! ## A call that only rewrites the globals -/

/-- Replacing the globals and returning leaves all else, and the call is over. -/
theorem State.setG_finishCall_frameHost (s : State) (x : Global) (r : CallResult) :
    FrameHost s ((s.setG x).finishCall r) r :=
  ⟨⟨fun _ => rfl, rfl, rfl⟩, rfl, rfl, rfl, rfl⟩

/-- What a call that replaces the globals and returns Ok does: its frame, no write, and the new globals. -/
theorem exec_globalCall {i : Instr} {s : State} {x : Global} (hexec : exec i s = .next ((s.setG x).finishCall .ok)) :
    ∃ t, exec i s = .next t ∧ FrameHost s t .ok ∧ t.trace = s.trace ∧ t.g = x :=
  ⟨(s.setG x).finishCall .ok, hexec, s.setG_finishCall_frameHost x .ok, rfl, rfl⟩

/-! ## Stop all -/

theorem State.haltAll_seq (s : State) (c : Chan) : s.haltAll.seq c = { s.seq c with cursor := 0 } := by
  cases c <;> rfl

/-- The write events of silencing the block, in order (R126, R128). -/
def State.silenceWrites (s : State) : List WriteEvent :=
  [Four.i3, .i2, .i1, .i0].map fun c => ⟨s.cfg.regVol.get c, silenceOf (s.cfg.chKind.get c)⟩

theorem State.silenceWrites_eq (s : State) :
    s.silenceWrites = [Four.i3, .i2, .i1, .i0].map fun c =>
      ⟨s.cfg.regVol.get c, if s.cfg.chKind.get c = .triangle then 0x00 else 0x30⟩ := by
  simp only [State.silenceWrites, silenceOf_eq]

theorem State.silenceAll_eq (s : State) : s.silenceAll = { s with trace := s.trace ++ s.silenceWrites } := by
  simp only [State.silenceAll, State.silence, State.regWrite, State.silenceWrites, List.append_assoc, List.map_cons,
    List.map_nil, List.cons_append, List.nil_append]

/-- Stop all in an unfaulted block: the halt and the SFX stop, and unless muted the silence writes (R126). -/
theorem exec_metaF0 (region : Byte) {s : State} (hfault : s.g.fault = none) :
    exec (.metaF0 region) s = .next (State.finishCall
      { s.haltAll.stopSfx with trace := s.trace ++ if s.g.mute then [] else s.silenceWrites } .ok) := by
  refine (State.initCall_of_none hfault).trans ?_
  cases s.g.mute
  case false =>
    rw [if_neg Bool.false_ne_true, State.silenceAll_eq]
    rfl
  case true =>
    simp only [if_true, List.append_nil]
    rfl

/-- Settles O53: stop all zeroes each cursor and makes the silence writes or none; stop-SFX-only rewrites the globals alone. -/
theorem stopCallsStop : Obligations.StopCallsStop := by
  intro region s hfault
  rw [← State.silenceWrites_eq]
  exact ⟨⟨_, exec_metaF0 region hfault, ⟨fun _ => rfl, rfl, rfl⟩, rfl, rfl, rfl, s.haltAll_seq, rfl, rfl⟩,
    exec_globalCall (State.initCall_of_none hfault)⟩

/-! ## Pause, resume and a suspended frame -/

theorem State.startAdvance_of_suspended {s : State} (hfault : s.g.fault = none) (hsuspend : s.g.suspend = true) :
    s.startAdvance = s.finishCall .ok := by
  rw [State.startAdvance, State.unlessFaulted_of_none hfault, if_pos hsuspend]

theorem step_advance {s : State} {rest : List HostCall} (hready : s.phase = .ready) (hcalls : s.calls = .advance :: rest) :
    step s = .next { s with calls := rest }.startAdvance := by
  rw [step_ready hready, State.startCall, hcalls]

/-- Settles O55: pause and resume rewrite the globals alone, and a suspended advance() returns before its frame begins. -/
theorem pauseAndResume : Obligations.PauseAndResume := by
  intro region s hfault
  refine ⟨exec_globalCall (State.initCall_of_none hfault), exec_globalCall (State.initCall_of_none hfault), ?_⟩
  intro rest hready hcalls hsuspend
  have hreturn : { s with calls := rest }.startAdvance = { s with calls := rest }.finishCall .ok :=
    State.startAdvance_of_suspended hfault hsuspend
  rw [step_advance hready hcalls, hreturn, State.finishCall, ← hready]

/-! ## The fade calls -/

/-- The rate as the high byte of the countdown (R133). -/
theorem fadeStart_toNat (rate : Byte) : (rate ++ 0#8).toNat = rate.toNat * 256 := by
  rw [BitVec.toNat_append, BitVec.toNat_zero, Nat.or_zero, Nat.shiftLeft_eq]

/-- Settles O56: all three rewrite the globals alone, and the countdown's high byte is the rate. -/
theorem fadeCallsSetTheFade : Obligations.FadeCallsSetTheFade := by
  intro region s hfault
  refine ⟨exec_globalCall (State.initCall_of_none hfault), exec_globalCall (State.initCall_of_none hfault), ?_⟩
  obtain ⟨t, hexec, hframe, htrace, hg⟩ := exec_globalCall (i := .metaF7 region) (State.initCall_of_none hfault)
  refine ⟨t, hexec, hframe, htrace, ?_, ?_⟩
  · rw [hg]
    exact fadeStart_toNat s.g.fadeRate
  · rw [hg]

/-! ## A refused call -/

/-- The refusal mark after a refused call: the first one is kept (R139). -/
theorem State.refuseCall_refused (s : State) (call : HostCall) :
    (s.refuseCall call).g.refused = match s.g.refused with | none => some call | some r => some r := by
  show some (s.g.refused.getD call) = _
  cases s.g.refused <;> rfl

/-- Settles O57: the call is refused as every refused call is, and that writes the refusal mark alone. -/
theorem unknownTrackIsRefused : Obligations.UnknownTrackIsRefused := by
  intro track region s _ hfault
  exact ⟨s.refuseCall (.init track region), congrArg _ (State.unlessFaulted_of_none hfault),
    s.setG_finishCall_frameHost _ .refused, rfl, rfl, s.refuseCall_refused _⟩

end Sys2Proof.Machine
end

section
/-! PROOF of O16 (R137, R141). Every host call tests the fault before anything else, so in a faulted block it does nothing but
return; and the state after any number of steps has a closed form, proved by induction over the steps. -/

namespace Sys2Proof.Machine

/-! ## The fault test of every call -/

/-- Every `init` call tests the fault first, whatever its track (R124, R137). -/
theorem exec_decodeHost_unlessFaulted (track region : Byte) (s : State) :
    ∃ f, exec (decodeHost track region) s = .next (s.unlessFaulted f) := by
  unfold decodeHost
  split_ifs <;> exact ⟨_, rfl⟩

/-- The step that takes a call first tests the fault, whichever call it is (R137). -/
theorem step_call_unlessFaulted {s : State} {call : HostCall} {rest : List HostCall} (hready : s.phase = .ready)
    (hcalls : s.calls = call :: rest) : ∃ f, step s = .next ({ s with calls := rest }.unlessFaulted f) := by
  rw [step_ready hready, State.startCall, hcalls]
  cases call with
  | advance => exact ⟨_, rfl⟩
  | init track region => exact exec_decodeHost_unlessFaulted track region _
  | sfxStart addr claim => exact ⟨_, rfl⟩

/-- A call of a faulted block is taken and returns Faulted, and that is all (R137). -/
theorem step_faulted_call {s : State} {call : HostCall} {rest : List HostCall} {info : CorruptSequence}
    (hready : s.phase = .ready) (hfault : s.g.fault = some info) (hcalls : s.calls = call :: rest) :
    step s = .next ({ s with calls := rest }.finishCall (.faulted info)) := by
  obtain ⟨f, hstep⟩ := step_call_unlessFaulted hready hcalls
  exact hstep.trans (congrArg _ (State.unlessFaulted_of_some hfault))

/-- With no call to come the block waits (R141). -/
theorem step_waiting {s : State} (hready : s.phase = .ready) (hcalls : s.calls = []) : step s = .next s := by
  rw [step_ready hready, State.startCall, hcalls]

/-! ## A run of a faulted block -/

/-- A faulted block after n steps: n calls taken, and if there was one, Faulted returned. -/
def State.afterFaultedCalls (s : State) (info : CorruptSequence) (n : Nat) : State :=
  { s with
    calls := s.calls.drop n
    result := if n = 0 ∨ s.calls = [] then s.result else some (.faulted info) }

@[simp] theorem State.afterFaultedCalls_zero (s : State) (info : CorruptSequence) : s.afterFaultedCalls info 0 = s := by
  simp [State.afterFaultedCalls]

theorem State.afterFaultedCalls_of_waiting {s : State} (info : CorruptSequence) (n : Nat) (hcalls : s.calls = []) :
    s.afterFaultedCalls info n = s := by
  rw [State.afterFaultedCalls, hcalls, List.drop_nil, if_pos (.inr rfl), ← hcalls]

/-- Taking the first call and then n more is taking n + 1. -/
theorem State.afterFaultedCalls_succ {s : State} {call : HostCall} {rest : List HostCall} (info : CorruptSequence) (n : Nat)
    (hready : s.phase = .ready) (hcalls : s.calls = call :: rest) :
    ({ s with calls := rest }.finishCall (.faulted info)).afterFaultedCalls info n = s.afterFaultedCalls info (n + 1) := by
  have hcall : ¬ (n + 1 = 0 ∨ s.calls = []) := by simp [hcalls]
  rw [State.afterFaultedCalls, State.afterFaultedCalls, if_neg hcall, hcalls, List.drop_succ_cons, hready]
  congr 1
  exact ite_self _

theorem run_faulted {s : State} {info : CorruptSequence} (n : Nat) (hready : s.phase = .ready)
    (hfault : s.g.fault = some info) : run n s = .next (s.afterFaultedCalls info n) := by
  induction n generalizing s with
  | zero => rw [run_zero, State.afterFaultedCalls_zero]
  | succ n ih =>
    cases hcalls : s.calls with
    | nil =>
      rw [run_succ (step_waiting hready hcalls), ih hready hfault, State.afterFaultedCalls_of_waiting info n hcalls,
        State.afterFaultedCalls_of_waiting info (n + 1) hcalls]
    | cons call rest =>
      rw [run_succ (step_faulted_call hready hfault hcalls), ← State.afterFaultedCalls_succ info n hready hcalls]
      exact ih rfl hfault

/-- No call is in progress in a faulted block of the invariant (R136). -/
theorem State.Inv.ready_of_faulted {s : State} {info : CorruptSequence} (hinv : s.Inv) (hfault : s.g.fault = some info) :
    s.phase = .ready := by
  by_contra hphase
  obtain ⟨hnone, -⟩ := hinv.running hphase
  cases hfault.symm.trans hnone

/-- Settles O16: no call is in progress, so each step takes a call, and each call stops at its fault test. -/
theorem faultedBlockIsQuiescent : Obligations.FaultedBlockIsQuiescent := by
  intro s info hinv hfault n
  exact ⟨s.afterFaultedCalls info n, run_faulted n (hinv.ready_of_faulted hfault) hfault, rfl, rfl, rfl, rfl, rfl, rfl, rfl⟩

end Sys2Proof.Machine
end

section
/-! PROOF of O1 to O6 (R54 to R60, R70, R124). Each of the decoder's two readings, of bytes and of an `init` call, is the
inverse of the encoder, form by form; the length and the family of an instruction are told from its first byte. -/

namespace Sys2Proof

/-! ## Decoding what was encoded -/

theorem decode_event (b : Byte) (rest : List Byte) (h : 32 ≤ b.toNat) :
    decode (b :: rest) = .ok (decodeEvent b, rest) := by
  simp only [decode, instrLength_event b h, decode4_event b 0 0 0 h]

theorem decodeEvent_encodeEvent (k : Fin 7) (p : BitVec 5) :
    decodeEvent (encodeEvent k p) = if p = 0 then .rest k else .note k p := by
  simp only [decodeEvent, pitch_encodeEvent, eventClass_encodeEvent]

theorem decode_encodeEvent (k : Fin 7) (p : BitVec 5) (rest : List Byte) :
    decode (encodeEvent k p :: rest) = .ok (if p = 0 then .rest k else .note k p, rest) := by
  rw [decode_event _ _ (encodeEvent_ge k p), decodeEvent_encodeEvent]

theorem decode_ill1A1B (low : BitVec 1) (a : Byte) (rest : List Byte) :
    decode ((0b0001101#7 ++ low) :: a :: rest) = .ok (.ill1A1B low a, rest) := by
  have hlow : low = 0 ∨ low = 1 := by revert low; decide
  obtain rfl | rfl := hlow <;> rfl

theorem decode_ill1C1F (low : BitVec 2) (a : Byte) (rest : List Byte) :
    decode ((0b000111#6 ++ low) :: a :: rest) = .ok (.ill1C1F low a, rest) := by
  have hlow : low = 0 ∨ low = 1 ∨ low = 2 ∨ low = 3 := by revert low; decide
  obtain rfl | rfl | rfl | rfl := hlow <;> rfl

theorem decodeHost_songInit {track : Byte} (region : Byte) (h : track.toNat ≤ 0xEF) :
    decodeHost track region = .songInit track region :=
  if_pos (BitVec.le_def.mpr h)

/-- A track from 0xF8 on is none of those before it in the table (R134). -/
theorem decodeHost_metaUnknown {track : Byte} (region : Byte) (h : 0xF8 ≤ track.toNat) :
    decodeHost track region = .metaUnknown track region := by
  have hsong : ¬ track ≤ 0xEF#8 := by
    rw [BitVec.le_def]
    exact fun hle => absurd (h.trans hle) (by decide)
  have hmeta : ∀ b : Byte, b.toNat < 0xF8 → track ≠ b := by
    rintro b hb rfl
    exact absurd h (Nat.not_le.mpr hb)
  rw [decodeHost, if_neg hsong, if_neg (hmeta _ (by decide)), if_neg (hmeta _ (by decide)),
    if_neg (hmeta _ (by decide)), if_neg (hmeta _ (by decide)), if_neg (hmeta _ (by decide)),
    if_neg (hmeta _ (by decide)), if_neg (hmeta _ (by decide)), if_neg (hmeta _ (by decide))]

/-- Settles O1: by the form of the instruction; where its first byte is fixed the decoder computes it. -/
theorem encodedInstructionDecodesToItself : Obligations.EncodedInstructionDecodesToItself := by
  intro i hwf
  cases i with
  | ill1A1B low a => exact decode_ill1A1B low a
  | ill1C1F low a => exact decode_ill1C1F low a
  | rest k => exact decode_encodeEvent k 0
  | note k p =>
    have hp : p ≠ 0 := by simpa [Instr.wellFormed] using hwf
    intro rest
    exact (decode_encodeEvent k p rest).trans (by rw [if_neg hp])
  | songInit track region =>
    exact decodeHost_songInit region (by simpa [Instr.wellFormed, BitVec.le_def] using hwf)
  | metaUnknown track region =>
    exact decodeHost_metaUnknown region (by simpa [Instr.wellFormed, BitVec.le_def] using hwf)
  | metaF0 | metaF1 | metaF2 | metaF3 | metaF4 | metaF5 | metaF6 | metaF7 => rfl
  | _ => exact fun _ => rfl

/-! ## Encoding what was decoded -/

/-- What an event byte decodes to is a well-formed event, written as that byte (R58, R59). -/
theorem decodeEvent_spec (b : Byte) (h : 32 ≤ b.toNat) :
    (decodeEvent b).wellFormed = true ∧ (decodeEvent b).isBytecode = true ∧ (decodeEvent b).isIllegal = false ∧
      (decodeEvent b).isEvent = true ∧ encode (decodeEvent b) = .bytecode [b] := by
  have hbyte := encodeEvent_of_byte b h
  unfold decodeEvent
  by_cases hp : b.extractLsb' 0 5 = 0
  · rw [if_pos hp]
    rw [hp] at hbyte
    exact ⟨rfl, rfl, rfl, rfl, congrArg (fun x => Encoding.bytecode [x]) hbyte⟩
  · rw [if_neg hp]
    exact ⟨by simpa [Instr.wellFormed] using hp, rfl, rfl, rfl, congrArg (fun x => Encoding.bytecode [x]) hbyte⟩

/-- What a byte below 0x20 decodes to is no event, illegal exactly from 0x19 on, and written as that byte and as many of the
bytes after it as its length takes (R54, R56, R57). -/
theorem decode4_command (b b1 b2 b3 : Byte) (h : b.toNat < 32) :
    (decode4 b b1 b2 b3).wellFormed = true ∧ (decode4 b b1 b2 b3).isBytecode = true ∧
      (decode4 b b1 b2 b3).isIllegal = decide (0x19 ≤ b.toNat) ∧ (decode4 b b1 b2 b3).isEvent = false ∧
      encode (decode4 b b1 b2 b3) = .bytecode ([b, b1, b2, b3].take (instrLength b)) := by
  obtain ⟨n, hn⟩ : ∃ n, b.toNat = n := ⟨_, rfl⟩
  have hb : b = BitVec.ofNat 8 n := BitVec.eq_of_toNat_eq (by simp [← hn])
  rw [hn] at h ⊢
  subst hb
  interval_cases n <;> exact ⟨rfl, rfl, rfl, rfl, rfl⟩

/-- Whatever four bytes are read, the instruction is well-formed bytecode and is written as the bytes its length takes. -/
theorem decode4_spec (b b1 b2 b3 : Byte) :
    (decode4 b b1 b2 b3).wellFormed = true ∧ (decode4 b b1 b2 b3).isBytecode = true ∧
      ((decode4 b b1 b2 b3).isIllegal = true ↔ 0x19 ≤ b.toNat ∧ b.toNat ≤ 0x1F) ∧
      ((decode4 b b1 b2 b3).isEvent = true ↔ 0x20 ≤ b.toNat) ∧
      encode (decode4 b b1 b2 b3) = .bytecode ([b, b1, b2, b3].take (instrLength b)) := by
  obtain h | h := Nat.lt_or_ge b.toNat 32
  · obtain ⟨hwf, hbytecode, hillegal, hevent, hencode⟩ := decode4_command b b1 b2 b3 h
    refine ⟨hwf, hbytecode, ?_, ?_, hencode⟩
    · rw [hillegal, decide_eq_true_eq]
      omega
    · rw [hevent, Bool.false_eq_true, false_iff]
      omega
  · obtain ⟨hwf, hbytecode, hillegal, hevent, hencode⟩ := decodeEvent_spec b h
    rw [decode4_event b b1 b2 b3 h, instrLength_event b h]
    refine ⟨hwf, hbytecode, ?_, ?_, hencode⟩
    · rw [hillegal, Bool.false_eq_true, false_iff]
      omega
    · exact iff_of_true hevent h

/-- What the decoder answers is what four bytes decode to, the missing ones being 0, and it takes as many bytes as the first
one tells. -/
theorem decode_ok {bs rest : List Byte} {i : Instr} (h : decode bs = .ok (i, rest)) :
    ∃ b b1 b2 b3, i = decode4 b b1 b2 b3 ∧ bs = [b, b1, b2, b3].take (instrLength b) ++ rest := by
  unfold decode at h
  split at h
  · cases h
  · split at h
    case h_5 => cases h
    all_goals
      rename_i hlength
      cases h
      exact ⟨_, _, _, _, rfl, by rw [hlength]; rfl⟩

/-- An `init` call's track decodes to a well-formed call written as its arguments (R124). -/
theorem decodeHost_spec (track region : Byte) :
    (decodeHost track region).wellFormed = true ∧ encode (decodeHost track region) = .initCall track region := by
  obtain h | h | h : track.toNat ≤ 0xEF ∨ (0xF0 ≤ track.toNat ∧ track.toNat ≤ 0xF7) ∨ 0xF8 ≤ track.toNat := by omega
  · rw [decodeHost_songInit region h]
    exact ⟨decide_eq_true (BitVec.le_def.mpr h), rfl⟩
  · obtain ⟨n, hn⟩ : ∃ n, track.toNat = n := ⟨_, rfl⟩
    have htrack : track = BitVec.ofNat 8 n := BitVec.eq_of_toNat_eq (by simp [← hn])
    rw [hn] at h
    obtain ⟨hlow, hhigh⟩ := h
    subst htrack
    interval_cases n <;> exact ⟨rfl, rfl⟩
  · rw [decodeHost_metaUnknown region h]
    exact ⟨decide_eq_true (BitVec.le_def.mpr h), rfl⟩

/-- Settles O2: the bytes read are those of four that the length takes, and the instruction is written as these. -/
theorem decodedBytesAreTheEncoding : Obligations.DecodedBytesAreTheEncoding := by
  refine ⟨fun bs i rest h => ?_, decodeHost_spec⟩
  obtain ⟨b, b1, b2, b3, rfl, rfl⟩ := decode_ok h
  obtain ⟨hwf, hbytecode, -, -, hencode⟩ := decode4_spec b b1 b2 b3
  exact ⟨hwf, hbytecode, _, hencode, rfl⟩

/-! ## The first byte -/

/-- How many bytes follow the first, in the numbers of R57. -/
theorem instrLength_sub_one : ∀ b : Byte, instrLength b - 1 =
    if 0x20 ≤ b.toNat ∨ b.toNat ≤ 3 then 0
    else if b.toNat = 0x05 ∨ b.toNat = 0x16 then 2
    else if 0x0E ≤ b.toNat ∧ b.toNat ≤ 0x15 then 3
    else 1 := by decide

/-- Settles O3: four bytes always decode, and the instruction's families are told from the first. -/
theorem firstByteHasOneMeaning : Obligations.FirstByteHasOneMeaning := by
  intro b b1 b2 b3 rest
  obtain ⟨-, hbytecode, hillegal, hevent, -⟩ := decode4_spec b b1 b2 b3
  exact ⟨_, by rw [decode_four, instrLength_sub_one], hbytecode, hillegal, hevent⟩

/-- Settles O4: the nine words computed. -/
theorem opcodeMapWordsDecode : Obligations.OpcodeMapWordsDecode := by
  unfold Obligations.OpcodeMapWordsDecode
  decide

end Sys2Proof

namespace Sys2Proof.Machine

/-! ## The step's instruction -/

/-- Settles O5: the four bytes at the cursor decode to the instruction that the step runs. -/
theorem stepRunsFetchedInstruction : Obligations.StepRunsFetchedInstruction := by
  intro s e c i rest hloop hdecode
  rw [decode_four] at hdecode
  obtain ⟨rfl, -⟩ := Prod.mk.inj (Except.ok.inj hdecode)
  exact ⟨step_loop hloop, State.cur_of_loop hloop⟩

theorem step_init {s : State} {track region : Byte} {rest : List HostCall} (hready : s.phase = .ready)
    (hcalls : s.calls = .init track region :: rest) :
    step s = exec (decodeHost track region) { s with calls := rest } := by
  rw [step_ready hready, State.startCall, hcalls]

/-- Settles O6: the call's instruction is the decoded one, known for each track. -/
theorem initCallRunsItsTrack : Obligations.InitCallRunsItsTrack := by
  intro s track region rest hready hcalls
  have hmeta : ∀ b : Byte, track.toNat = b.toNat → decodeHost track region = decodeHost b region :=
    fun b hb => congrArg (decodeHost · region) (BitVec.eq_of_toNat_eq hb)
  exact ⟨_, step_init hready hcalls, decodeHost_songInit region, hmeta 0xF0, hmeta 0xF1, hmeta 0xF2, hmeta 0xF3, hmeta 0xF4,
    hmeta 0xF5, hmeta 0xF6, hmeta 0xF7, decodeHost_metaUnknown region⟩

end Sys2Proof.Machine
end

section
/-! What every operation of the block keeps of a voice: its channel id (R20), the bound of its level (R102), a glide active
only with a magnitude (R75, R90), its phase's order (R24), and the rule of its instrument pointer (R33). -/

namespace Sys2Proof.Machine

/-- The instrument pointer of a voice is the record of its number in the table (R33). -/
def Voice.Pointed (x : Voice) (tab : Word) : Prop := x.instrPtr = tab + 8 * x.instrNumber.zeroExtend 16

/-- What a voice keeps from one step to the next, whatever the step does to it. -/
structure Voice.Kept (x y : Voice) : Prop where
  /-- The channel id stays (R20). -/
  id : y.id = x.id
  /-- A level in 0..0xF0 stays in it (R102). -/
  level : x.level.toNat ≤ 0xF0 → y.level.toNat ≤ 0xF0
  /-- A glide is active only with a nonzero magnitude (R75, R90). -/
  porta : (x.portaActive = true → portaMagnitude x.portaRate ≠ 0) → y.portaActive = true → portaMagnitude y.portaRate ≠ 0
  /-- The phase goes forward, or a pending reload is done (R24). -/
  phase : x.phase.rank ≤ y.phase.rank ∨ (x.reloadPending = true ∧ y.reloadPending = false)

/-- What every operation but a voice update keeps: the same, and the phase only goes forward. -/
structure Voice.Forward (x y : Voice) : Prop extends Voice.Kept x y where
  rank : x.phase.rank ≤ y.phase.rank

/-- Going forward, with what is kept of a voice apart from its phase. -/
theorem Voice.Forward.intro {x y : Voice} (id : y.id = x.id) (level : x.level.toNat ≤ 0xF0 → y.level.toNat ≤ 0xF0)
    (porta : (x.portaActive = true → portaMagnitude x.portaRate ≠ 0) → y.portaActive = true →
      portaMagnitude y.portaRate ≠ 0)
    (rank : x.phase.rank ≤ y.phase.rank) : x.Forward y :=
  ⟨⟨id, level, porta, .inl rank⟩, rank⟩

theorem Voice.Forward.refl (x : Voice) : x.Forward x :=
  .intro rfl (fun h => h) (fun h => h) (Nat.le_refl _)

theorem Voice.Forward.trans {x y z : Voice} (hxy : x.Forward y) (hyz : y.Forward z) : x.Forward z :=
  .intro (hyz.id.trans hxy.id) (fun h => hyz.level (hxy.level h)) (fun h => hyz.porta (hxy.porta h))
    (hxy.rank.trans hyz.rank)

theorem EnvPhase.rank_le_idle (p : EnvPhase) : p.rank ≤ EnvPhase.idle.rank := by
  cases p <;> decide

/-! ## The setters, the reset and the events -/

theorem Voice.reset_forward (x : Voice) (c : Chan) (tab : Word) (hi : Byte) :
    x.Forward { Voice.reset c tab hi with id := x.id } :=
  .intro rfl (fun _ => Nat.zero_le _) (fun _ h => nomatch h) x.phase.rank_le_idle

theorem Voice.reset_pointed (c d : Chan) (tab : Word) (hi : Byte) :
    Voice.Pointed { Voice.reset c tab hi with id := d } tab := by
  simp [Voice.Pointed, Voice.reset]

theorem Voice.setPorta_forward (x : Voice) (a : Byte) : x.Forward (x.setPorta a) := by
  refine .intro rfl (fun h => h) (fun _ hactive hzero => ?_) (Nat.le_refl _)
  rw [show (x.setPorta a).portaActive = false from if_pos hzero] at hactive
  exact Bool.false_ne_true hactive

theorem Voice.selectInstrument_forward (x : Voice) (tab : Word) (a : Byte) : x.Forward (x.selectInstrument tab a) := by
  rw [Voice.selectInstrument_fields]
  exact .intro rfl (fun h => h) (fun h => h) (Nat.le_refl _)

theorem Voice.release_forward (x : Voice) : x.Forward x.release := by
  have hrank : ∀ p : EnvPhase, p.rank ≤ (if p = .idle then EnvPhase.idle else .release).rank := by
    intro p
    cases p <;> decide
  rw [Voice.release_eq]
  exact .intro rfl (fun h => h) (fun h => h) (hrank x.phase)

/-- A note gives its number, asks for a reload when not tied into, and starts a glide exactly when tied into with a
magnitude (R75). -/
theorem Voice.noteOn_eq (x : Voice) (n : Fin 96) (target : Word) (retrig : Bool) :
    x.noteOn n target retrig =
      { x with
        note := n
        period := if portaMagnitude x.portaRate = 0 ∨ retrig = true then target else x.period
        portaActive := !decide (portaMagnitude x.portaRate = 0 ∨ retrig = true)
        reloadPending := x.reloadPending || retrig } := by
  by_cases h : portaMagnitude x.portaRate = 0 ∨ retrig = true
  · cases retrig <;> simp_all [Voice.noteOn]
  · obtain ⟨hmagnitude, hretrig⟩ := not_or.mp h
    have hretrig : retrig = false := Bool.eq_false_of_not_eq_true hretrig
    subst hretrig
    simp only [Voice.noteOn, if_neg h, decide_eq_false h, Bool.not_false, Bool.or_false]
    rfl

theorem Voice.noteOn_forward (x : Voice) (n : Fin 96) (target : Word) (retrig : Bool) :
    x.Forward (x.noteOn n target retrig) := by
  rw [Voice.noteOn_eq]
  refine .intro rfl (fun h => h) (fun _ hactive hzero => ?_) (Nat.le_refl _)
  simp [hzero] at hactive

/-! ## A voice update -/

/-- The envelope step goes forward through the phases (R24, R100). -/
theorem Voice.envelopeStep_rank (x : Voice) (kind : ChKind) (r0 r1 r2 r3 : Byte) :
    x.phase.rank ≤ (x.envelopeStep kind r0 r1 r2 r3).phase.rank := by
  cases h : x.phase with
  | attack => exact Nat.zero_le _
  | decay =>
    have hstep := Voice.decayStep_toNat (rate r1) r2 h
    rw [Voice.envelopeStep_decay _ _ _ _ _ h]
    split_ifs at hstep
    · rw [hstep, h]
    · rw [hstep.2]
      decide
    · rw [hstep.2]
  | sustain => rw [Voice.envelopeStep_sustain _ _ _ _ _ h, h]
  | release =>
    have hstep := Voice.releaseStep_toNat kind (rate r3) h
    rw [Voice.envelopeStep_release _ _ _ _ _ h]
    split_ifs at hstep
    · rw [hstep.2]
      decide
    · rw [hstep, h]
    · rw [hstep.2]
      decide
    · rw [hstep.2]
  | idle => rw [Voice.envelopeStep_idle _ _ _ _ _ h, h]

theorem State.steppedVoice_level (s : State) (c : Chan) (h : (s.voice c).level.toNat ≤ 0xF0) :
    (s.steppedVoice c).level.toNat ≤ 0xF0 := by
  refine Voice.envelopeStep_level _ _ _ _ _ _ ?_
  rw [Voice.lfoStep_frame]
  cases (s.voice c).reloadPending <;> exact h

/-- Only a pending reload takes a voice back (R24, R99). -/
theorem State.steppedVoice_rank (s : State) (c : Chan) (h : (s.voice c).reloadPending = false) :
    (s.voice c).phase.rank ≤ (s.steppedVoice c).phase.rank := by
  have hrank := Voice.envelopeStep_rank ((s.voice c).lfoStep (s.ir c 4)) (s.cfg.chKind.get c) (s.ir c 0) (s.ir c 1)
    (s.ir c 2) (s.ir c 3)
  have hphase : ((s.voice c).lfoStep (s.ir c 4)).phase = (s.voice c).phase := by rw [Voice.lfoStep_frame]
  rw [hphase] at hrank
  simpa [State.steppedVoice, h] using hrank

/-- A voice update replaces one voice, keeping what every step keeps, and appends to the trace (R67). -/
theorem State.updateVoice_kept (s : State) (c : Chan) :
    ∃ x ws, s.updateVoice c = { s with v := s.v.set c x, trace := s.trace ++ ws } ∧ (s.voice c).Kept x ∧
      ∀ tab, (s.voice c).Pointed tab → x.Pointed tab := by
  obtain ⟨x, ws, heq, -, hid, hnumber, hptr, -, hreload, hlevel, hphase, -, hrate, -, hactive⟩ := s.updateVoice_form c
  refine ⟨x, ws, heq, ⟨hid, fun h => ?_, fun h ha => ?_, ?_⟩, fun tab h => ?_⟩
  · rw [hlevel]
    exact s.steppedVoice_level c h
  · rw [hrate]
    exact h (hactive ha)
  · rw [hphase, hreload]
    cases hpending : (s.voice c).reloadPending with
    | false => exact .inl (s.steppedVoice_rank c hpending)
    | true => exact .inr ⟨rfl, rfl⟩
  · rw [Voice.Pointed, hptr, hnumber]
    exact h

/-- The release trigger after another step: it goes forward and keeps the reload mark (R101). -/
theorem Voice.Kept.release {x y : Voice} (h : x.Kept y) : x.Kept y.release := by
  have hforward := y.release_forward
  have hreload : y.release.reloadPending = y.reloadPending := by rw [Voice.release_eq]
  exact ⟨hforward.id.trans h.id, fun hx => hforward.level (h.level hx), fun hx => hforward.porta (h.porta hx),
    h.phase.imp (·.trans hforward.rank) fun ⟨hx, hy⟩ => ⟨hx, hreload.trans hy⟩⟩

theorem Voice.Pointed.release {x : Voice} {tab : Word} (h : x.Pointed tab) : x.release.Pointed tab := by
  rw [Voice.release_eq]
  exact h

/-! ## The SFX layer's settings -/

theorem Voice.sfxFields_forward (x : Voice) (f : SfxVoice) : x.Forward (x.sfxFields f) := by
  refine .intro rfl (fun _ => ?_) (fun _ hactive hzero => ?_) ?_
  · show (if f.level ≤ 0xF0#8 then f.level else 0xF0#8).toNat ≤ 0xF0
    split
    · exact BitVec.le_def.mp ‹_›
    · exact Nat.le_refl _
  · rw [show (x.sfxFields f).portaActive = false from if_pos hzero] at hactive
    exact Bool.false_ne_true hactive
  · show x.phase.rank ≤ (if x.phase.rank ≤ f.phase.rank then f.phase else x.phase).rank
    split
    · assumption
    · exact Nat.le_refl _

theorem State.sfxVoiceOf_forward (s : State) (c : Chan) (f : SfxVoice) : (s.voice c).Forward (s.sfxVoiceOf c f) := by
  unfold State.sfxVoiceOf
  split
  case isFalse => exact .refl _
  case isTrue =>
    have hbase : (s.voice c).Forward (if f.restart then { Voice.reset c s.g.instrTable s.cfg.hiCacheReset with
        id := (s.voice c).id } else s.voice c) := by
      split
      · exact Voice.reset_forward _ _ _ _
      · exact .refl _
    have hfields := hbase.trans (Voice.sfxFields_forward _ f)
    cases f.inst with
    | none => exact hfields
    | some a => exact hfields.trans (Voice.selectInstrument_forward _ _ a)

end Sys2Proof.Machine
end

section
/-! What an instruction of the bytecode can do (R70, R142): five kinds of effect, to one of which every instruction
belongs. -/

namespace Sys2Proof.Machine

/-! ## Note and rest events as one change of a voice and a sequencer -/

/-- The sequencer of a channel after an event of length d, but for the note's or the rest's own part (R71). -/
def Seq.eventTaken (q : Seq) (d : Byte) : Seq :=
  { q with cursor := q.cursor + 1, flags := clearDot q.flags, duration := q.duration + d }

/-- The event's length is told before its byte is fetched: fetching moves the cursor alone. -/
theorem State.advanceCursor_eventLength (s : State) (c : Chan) (n : Word) (k : Fin 7) :
    (s.advanceCursor c n).eventLength c k = s.eventLength c k := by
  simp only [State.eventLength, State.advanceCursor_seq_same, State.advanceCursor_cfg]

@[simp] theorem State.setSeq_setSeq (s : State) (c : Chan) (x y : Seq) : (s.setSeq c x).setSeq c y = s.setSeq c y := by
  simp [State.setSeq]

theorem State.addDuration_fetched (s : State) (c : Chan) (d : Byte) :
    (s.advanceCursor c 1).addDuration c d = s.setSeq c ((s.seq c).eventTaken d) := by
  rw [State.addDuration, State.advanceCursor_seq_same, State.advanceCursor, State.setSeq_setSeq]
  rfl

/-- REST: the duration's part, the release trigger, the sentinel and the end of the tie (R71, R72). -/
theorem exec_rest (k : Fin 7) (s : State) :
    exec (.rest k) s = .next (State.leaveChannel
      { s with
        v := s.v.set s.cur (s.voice s.cur).release
        q := s.q.set s.cur
          { (s.seq s.cur).eventTaken (s.eventLength s.cur k) with sustain := 0xFF, tiedIn := false } }) := by
  show execRest k s = _
  simp only [execRest, State.advanceCursor_eventLength, State.addDuration_fetched, State.restEvent, State.releaseTrigger,
    State.setVoice_seq, State.setSeq_seq_same, State.setSeq_voice]
  simp only [State.setSeq, State.setVoice, Quad.set_set]

/-- The dot is no part of the octave index (R28). -/
theorem octaveIndex_clearDot : ∀ f : Byte, octaveIndex (clearDot f) = octaveIndex f := by decide

theorem flagTie_clearDot (f : Byte) : flagTie (clearDot f) = flagTie f :=
  clearDot_bit f 1 (by decide)

/-- The note is told by parts of the sequencer that the event's duration leaves (R74). -/
theorem State.noteNumber_eventTaken (s : State) (c : Chan) (d : Byte) (p : BitVec 5) :
    (s.setSeq c ((s.seq c).eventTaken d)).noteNumber c p = s.noteNumber c p := by
  simp only [State.noteNumber, State.setSeq_seq_same, State.setSeq_cfg, State.setSeq_g, Seq.eventTaken,
    octaveIndex_clearDot]

/-- NOTE: the duration's part, the gate, the pitch and the tie (R71, R73 to R76). -/
theorem exec_note (k : Fin 7) (p : BitVec 5) (s : State) :
    exec (.note k p) s = .next (State.leaveChannel
      { s with
        v := s.v.set s.cur ((s.voice s.cur).noteOn (s.noteNumber s.cur p) (periodEntry s.cfg (s.noteNumber s.cur p))
          (!(s.seq s.cur).tiedIn))
        q := s.q.set s.cur
          { (s.seq s.cur).eventTaken (s.eventLength s.cur k) with
            sustain :=
              if flagTie (s.seq s.cur).flags then 0xFF else gateSustain (s.seq s.cur).gate (s.eventLength s.cur k)
            tiedIn := flagTie (s.seq s.cur).flags } }) := by
  show execNote k p s = _
  simp only [execNote, State.advanceCursor_eventLength, State.addDuration_fetched, State.noteEvent,
    State.noteNumber_eventTaken, State.setSeq_seq_same, State.setSeq_voice, State.setSeq_cfg]
  simp only [State.setSeq, State.setVoice, Quad.set_set, Seq.eventTaken, flagTie_clearDot]

/-! ## The five kinds of effect -/

/-- The reserved bit of a sequencer's flag byte (R28). -/
def Seq.reserved (q : Seq) : Bool := q.flags.getLsbD 7

/-- What running a bytecode instruction can come to. -/
inductive BytecodeEffect (i : Instr) (s : State) : State → Prop
  /-- The channel's sequencer is rewritten, the loop goes on. -/
  | sequencer (q : Seq) (hq : q.reserved = (s.seq s.cur).reserved) : BytecodeEffect i s (s.setSeq s.cur q)
  /-- The channel's voice is rewritten, the loop goes on. -/
  | voice (x : Voice) (hx : (s.voice s.cur).Forward x)
      (hptr : (s.voice s.cur).Pointed s.g.instrTable → x.Pointed s.g.instrTable) :
      BytecodeEffect i s ((s.advanceCursor s.cur 2).setVoice s.cur x)
  /-- The tempo or the global transpose is rewritten, the loop goes on. -/
  | globals (n tempo : Word) (frac gtrans : Byte) :
      BytecodeEffect i s
        ((s.advanceCursor s.cur n).setG { s.g with tempo := tempo, frac := frac, gtrans := gtrans })
  /-- An event or a halt: the command loop returns. -/
  | leave (x : Voice) (hx : (s.voice s.cur).Forward x)
      (hptr : (s.voice s.cur).Pointed s.g.instrTable → x.Pointed s.g.instrTable) (q : Seq)
      (hq : q.reserved = (s.seq s.cur).reserved) (ws : List WriteEvent) :
      BytecodeEffect i s
        (State.leaveChannel { s with v := s.v.set s.cur x, q := s.q.set s.cur q, trace := s.trace ++ ws })
  /-- An illegal byte: the call ends. -/
  | raise (b a : Byte) (hi : encode i = .bytecode [b, a]) (hillegal : i.isIllegal = true) :
      BytecodeEffect i s (s.illegalByte b)

section Effect

variable {i : Instr} {s : State}

theorem State.flagCommand_effect (n : Word) {f : Byte → Byte} (hf : ∀ x, (f x).getLsbD 7 = x.getLsbD 7) :
    BytecodeEffect i s (s.flagCommand n f) := by
  rw [State.flagCommand_eq]
  exact .sequencer _ (hf _)

theorem State.seqCommand_effect {f : Seq → Seq} (hf : ∀ q, (f q).reserved = q.reserved) :
    BytecodeEffect i s (s.seqCommand f) := by
  rw [State.seqCommand_eq]
  exact .sequencer _ (hf _)

theorem State.loopEnd_effect (k : Level) (a t0 t1 : Byte) : BytecodeEffect i s (s.loopEnd k a t0 t1) := by
  rw [State.loopEnd_eq]
  exact .sequencer _ rfl

theorem State.loopBreak_effect (k : Level) (a t0 t1 : Byte) : BytecodeEffect i s (s.loopBreak k a t0 t1) := by
  rw [State.loopBreak_eq]
  refine .sequencer _ ?_
  split
  · exact overwriteLow_bit _ _ 7 (by decide)
  · rfl

theorem Seq.eventTaken_reserved (q : Seq) (d : Byte) : (q.eventTaken d).reserved = q.reserved :=
  clearDot_bit _ 7 (by decide)

theorem State.voiceCommand_effect {f : Voice → Voice} (hf : (s.voice s.cur).Forward (f (s.voice s.cur)))
    (hptr : (s.voice s.cur).Pointed s.g.instrTable → (f (s.voice s.cur)).Pointed s.g.instrTable) :
    BytecodeEffect i s (s.voiceCommand f) :=
  .voice _ hf hptr

/-- An event makes no write. -/
theorem BytecodeEffect.leave_silent {x : Voice} {q : Seq} (hx : (s.voice s.cur).Forward x)
    (hptr : (s.voice s.cur).Pointed s.g.instrTable → x.Pointed s.g.instrTable)
    (hq : q.reserved = (s.seq s.cur).reserved) :
    BytecodeEffect i s (State.leaveChannel { s with v := s.v.set s.cur x, q := s.q.set s.cur q }) := by
  have h := BytecodeEffect.leave (i := i) x hx hptr q hq []
  rwa [List.append_nil] at h

end Effect

/-- A note leaves the instrument selection (R75). -/
theorem Voice.noteOn_pointed {x : Voice} {tab : Word} (n : Fin 96) (target : Word) (retrig : Bool) (h : x.Pointed tab) :
    (x.noteOn n target retrig).Pointed tab := by
  rw [Voice.noteOn_eq]
  exact h

@[simp] theorem State.set_voice_self (s : State) (c : Chan) : s.v.set c (s.voice c) = s.v := Quad.set_get s.v c

@[simp] theorem State.set_seq_self (s : State) (c : Chan) : s.q.set c (s.seq c) = s.q := Quad.set_get s.q c

theorem exec_jump (t0 t1 : Byte) (s : State) :
    exec (.jump t0 t1) s = .next (s.setCursor s.cur (assemble s.cfg.wordOrder t0 t1)) := rfl

/-- A setter that leaves the id, level, phase and glide and the instrument selection. -/
theorem Voice.Forward.of_same {x y : Voice} (hid : y.id = x.id) (hlevel : y.level = x.level) (hphase : y.phase = x.phase)
    (hactive : y.portaActive = x.portaActive) (hrate : y.portaRate = x.portaRate) : x.Forward y := by
  refine .intro hid (fun h => ?_) (fun h => ?_) ?_
  · rwa [hlevel]
  · rwa [hactive, hrate]
  · rw [hphase]

/-- INST's setter gives the pointer of its number, or keeps both (R33, R86). -/
theorem Voice.selectInstrument_pointed (x : Voice) (tab : Word) (a : Byte) (h : x.Pointed tab) :
    (x.selectInstrument tab a).Pointed tab :=
  (Voice.selectInstrument_frame x tab a).2.2.2 h

/-- Every bytecode instruction has one of the five effects (R70). -/
theorem exec_effect {i : Instr} {s t : State} (hi : i.isBytecode = true) (h : exec i s = .next t) :
    BytecodeEffect i s t := by
  have effect {u : State} (hu : exec i s = .next u) (heffect : BytecodeEffect i s u) : BytecodeEffect i s t := by
    cases hu.symm.trans h
    exact heffect
  cases i with
  | triplet => exact effect rfl (State.flagCommand_effect 1 fun f => toggleTriplet_bit f 7 (by decide))
  | tie => exact effect rfl (State.flagCommand_effect 1 fun f => toggleTie_bit f 7 (by decide))
  | dot => exact effect rfl (State.flagCommand_effect 1 fun f => setDot_bit f 7 (by decide))
  | oct15va => exact effect rfl (State.flagCommand_effect 1 fun f => toggle15va_bit f 7 (by decide))
  | flags a => exact effect rfl (State.flagCommand_effect 2 fun f => overwriteLow_bit f a 7 (by decide))
  | oct a => exact effect rfl (State.flagCommand_effect 2 fun f => setOctave_bit f a 7 (by decide))
  | tempo w0 w1 => exact effect rfl (.globals 3 (assemble s.cfg.wordOrder w0 w1) 0 s.g.gtrans)
  | gtrans a => exact effect rfl (.globals 2 s.g.tempo s.g.frac a)
  | gate a => exact effect rfl (State.seqCommand_effect fun _ => rfl)
  | trans a => exact effect rfl (State.seqCommand_effect fun _ => rfl)
  | vol a => exact effect rfl (State.voiceCommand_effect (.of_same rfl rfl rfl rfl rfl) id)
  | duty a => exact effect rfl (State.voiceCommand_effect (.of_same rfl rfl rfl rfl rfl) id)
  | detune a => exact effect rfl (State.voiceCommand_effect (.of_same rfl rfl rfl rfl rfl) id)
  | porta a => exact effect rfl (State.voiceCommand_effect (Voice.setPorta_forward _ a) id)
  | inst a =>
    exact effect rfl (State.voiceCommand_effect (Voice.selectInstrument_forward _ _ a)
      (Voice.selectInstrument_pointed _ _ a))
  | loop0 a t0 t1 => exact effect rfl (State.loopEnd_effect .i0 a t0 t1)
  | loop1 a t0 t1 => exact effect rfl (State.loopEnd_effect .i1 a t0 t1)
  | loop2 a t0 t1 => exact effect rfl (State.loopEnd_effect .i2 a t0 t1)
  | loop3 a t0 t1 => exact effect rfl (State.loopEnd_effect .i3 a t0 t1)
  | break0 a t0 t1 => exact effect rfl (State.loopBreak_effect .i0 a t0 t1)
  | break1 a t0 t1 => exact effect rfl (State.loopBreak_effect .i1 a t0 t1)
  | break2 a t0 t1 => exact effect rfl (State.loopBreak_effect .i2 a t0 t1)
  | break3 a t0 t1 => exact effect rfl (State.loopBreak_effect .i3 a t0 t1)
  | jump t0 t1 => exact effect (exec_jump t0 t1 s) (.sequencer _ rfl)
  | halt a =>
    have hleave := BytecodeEffect.leave (i := .halt a) (s.voice s.cur) (.refl _) id { s.seq s.cur with cursor := 0 } rfl
      (if s.g.mute then [] else [⟨s.cfg.regVol.get s.cur, silenceOf (s.cfg.chKind.get s.cur)⟩])
    rw [State.set_voice_self] at hleave
    exact effect (exec_halt a s) hleave
  | ill19 a => exact effect rfl (.raise 0x19 a rfl rfl)
  | ill1A1B low a => exact effect rfl (.raise (0b0001101#7 ++ low) a rfl rfl)
  | ill1C1F low a => exact effect rfl (.raise (0b000111#6 ++ low) a rfl rfl)
  | rest k =>
    exact effect (exec_rest k s)
      (.leave_silent (Voice.release_forward _) Voice.Pointed.release
        (Seq.eventTaken_reserved (s.seq s.cur) (s.eventLength s.cur k)))
  | note k p =>
    exact effect (exec_note k p s)
      (.leave_silent (Voice.noteOn_forward _ _ _ _) (Voice.noteOn_pointed _ _ _)
        (Seq.eventTaken_reserved (s.seq s.cur) (s.eventLength s.cur k)))
  | songInit | metaF0 | metaF1 | metaF2 | metaF3 | metaF4 | metaF5 | metaF6 | metaF7 | metaUnknown => cases hi

end Sys2Proof.Machine
end

section
/-! What a step keeps of the whole state: the ROM and the parameters, the trace so far, and of every voice and sequencer what
every operation keeps. First what all that happens on one channel has in common, then the host's calls, then the SFX layer. -/

namespace Sys2Proof.Machine

/-! ## What is kept -/

/-- What every step keeps, whatever it does. -/
structure State.Keeps (s t : State) : Prop where
  rom : t.rom = s.rom
  cfg : t.cfg = s.cfg
  trace : ∃ ws, t.trace = s.trace ++ ws
  voices : ∀ c, (s.voice c).Kept (t.voice c)
  pointers : (∀ c, (s.voice c).Pointed s.g.instrTable) → ∀ c, (t.voice c).Pointed t.g.instrTable
  reserved : ∀ c, (s.seq c).reserved = false → (t.seq c).reserved = false

theorem State.Keeps.refl (s : State) : s.Keeps s :=
  ⟨rfl, rfl, ⟨[], (List.append_nil _).symm⟩, fun c => (Voice.Forward.refl (s.voice c)).toKept, fun h => h, fun _ h => h⟩

/-- A change of what `Keeps` does not speak of. -/
theorem State.Keeps.of_same {s t u : State} (h : s.Keeps t) (hrom : u.rom = t.rom) (hcfg : u.cfg = t.cfg)
    (htrace : u.trace = t.trace) (hv : u.v = t.v) (hq : u.q = t.q) (htable : u.g.instrTable = t.g.instrTable) :
    s.Keeps u where
  rom := hrom.trans h.rom
  cfg := hcfg.trans h.cfg
  trace := htrace ▸ h.trace
  voices c := by
    have hvoice : u.voice c = t.voice c := congrArg (Quad.get · c) hv
    exact hvoice ▸ h.voices c
  pointers hs c := by
    have hvoice : u.voice c = t.voice c := congrArg (Quad.get · c) hv
    exact hvoice ▸ htable ▸ h.pointers hs c
  reserved c hs := by
    have hseq : u.seq c = t.seq c := congrArg (Quad.get · c) hq
    exact hseq ▸ h.reserved c hs

/-- The calls still to come are no part of it. -/
theorem State.Keeps.of_calls {s t : State} {rest : List HostCall} (h : State.Keeps { s with calls := rest } t) :
    s.Keeps t :=
  ⟨h.rom, h.cfg, h.trace, h.voices, h.pointers, h.reserved⟩

/-- The rules of the globals that hold between any two steps: an override only with an SFX event (R119 item 3), a completed
fade active at 0 (R66, R133), the one fault code (R135). -/
structure Global.Sound (g : Global) : Prop where
  claimed : ∀ c, g.override.get c = true → g.sfxCursor ≠ 0
  fade : g.fadeComplete = true → g.fadeActive = true ∧ g.fadeCounter = 0
  faultCode : ∀ r, g.fault = some r → r.code = 1

/-- Globals that keep the rules of those before, the instrument table and the fault. -/
structure Global.Follows (g h : Global) : Prop where
  sound : g.Sound → h.Sound
  instrTable : h.instrTable = g.instrTable
  fault : h.fault = g.fault

/-! ## What happens on one channel -/

/-- What all that happens on channel c has in common: of the voices and sequencers it changes c's alone, of the globals those
that bytecode can reach (R142). -/
structure ChannelStep (c : Chan) (s t : State) : Prop where
  inputs : t.rom = s.rom ∧ t.cfg = s.cfg ∧ t.calls = s.calls
  globals : t.g = { s.g with tempo := t.g.tempo, frac := t.g.frac, gtrans := t.g.gtrans, fault := t.g.fault }
  trace : ∃ ws, t.trace = s.trace ++ ws
  voice : ∃ x, t.v = s.v.set c x ∧ (s.voice c).Kept x ∧
    ((s.voice c).Pointed s.g.instrTable → x.Pointed s.g.instrTable)
  seq : ∃ q, t.q = s.q.set c q ∧ q.reserved = (s.seq c).reserved

section Channel

variable {c : Chan} {s t : State} (h : ChannelStep c s t)
include h

theorem ChannelStep.onlyVoice : OnlyVoice c s t := by
  obtain ⟨x, hv, -⟩ := h.voice
  intro d hd
  rw [State.voice, hv, Quad.get_set_other _ _ _ _ hd, State.voice]

theorem ChannelStep.onlySeq : OnlySeq c s t := by
  obtain ⟨q, hq, -⟩ := h.seq
  intro d hd
  rw [State.seq, hq, Quad.get_set_other _ _ _ _ hd, State.seq]

theorem ChannelStep.sameInputs : SameInputs s t := by
  obtain ⟨hrom, hcfg, hcalls⟩ := h.inputs
  exact ⟨fun a => by rw [State.memRead, hrom, State.memRead], hcfg, hcalls⟩

theorem ChannelStep.keeps : s.Keeps t where
  rom := h.inputs.1
  cfg := h.inputs.2.1
  trace := h.trace
  voices d := by
    obtain ⟨x, hv, hx, -⟩ := h.voice
    by_cases hd : d = c
    · subst hd
      rw [State.voice, State.voice, hv, Quad.get_set_same]
      exact hx
    · rw [h.onlyVoice d hd]
      exact (Voice.Forward.refl _).toKept
  pointers hs d := by
    obtain ⟨x, hv, -, hptr⟩ := h.voice
    rw [h.globals]
    by_cases hd : d = c
    · subst hd
      rw [State.voice, hv, Quad.get_set_same]
      exact hptr (hs d)
    · rw [h.onlyVoice d hd]
      exact hs d
  reserved d hs := by
    obtain ⟨q, hq, hkept⟩ := h.seq
    by_cases hd : d = c
    · subst hd
      rw [State.seq, hq, Quad.get_set_same, hkept]
      exact hs
    · rw [h.onlySeq d hd]
      exact hs

/-- Leaving the channel, or entering its command loop, is a change of the phase alone. -/
theorem ChannelStep.withPhase (p : Phase) : ChannelStep c s { t with phase := p } :=
  ⟨h.inputs, h.globals, h.trace, h.voice, h.seq⟩

theorem ChannelStep.leaveChannel : ChannelStep c s t.leaveChannel := by
  rw [State.leaveChannel_eq]
  exact h.withPhase _

end Channel

/-- Rewriting a channel's voice and sequencer and appending to the trace. -/
theorem ChannelStep.rewrite {c : Chan} {s : State} {x : Voice} {q : Seq} (ws : List WriteEvent) (hx : (s.voice c).Kept x)
    (hptr : (s.voice c).Pointed s.g.instrTable → x.Pointed s.g.instrTable) (hq : q.reserved = (s.seq c).reserved) :
    ChannelStep c s { s with v := s.v.set c x, q := s.q.set c q, trace := s.trace ++ ws } :=
  ⟨⟨rfl, rfl, rfl⟩, rfl, ⟨ws, rfl⟩, ⟨x, rfl, hx, hptr⟩, ⟨q, rfl, hq⟩⟩

/-- The trivial change of a voice. -/
theorem State.keptVoice (s : State) (c : Chan) : ∃ x, s.v = s.v.set c x ∧ (s.voice c).Kept x ∧
    ((s.voice c).Pointed s.g.instrTable → x.Pointed s.g.instrTable) :=
  ⟨s.voice c, (s.set_voice_self c).symm, (Voice.Forward.refl _).toKept, id⟩

/-- The trivial change of a trace. -/
theorem State.keptTrace (s : State) : ∃ ws, s.trace = s.trace ++ ws := ⟨[], (List.append_nil _).symm⟩

theorem BytecodeEffect.channelStep {i : Instr} {s t : State} (h : BytecodeEffect i s t) : ChannelStep s.cur s t := by
  cases h with
  | sequencer q hq => exact ⟨⟨rfl, rfl, rfl⟩, rfl, s.keptTrace, s.keptVoice _, ⟨q, rfl, hq⟩⟩
  | voice x hx hptr => exact ⟨⟨rfl, rfl, rfl⟩, rfl, s.keptTrace, ⟨x, rfl, hx.toKept, hptr⟩, ⟨_, rfl, rfl⟩⟩
  | globals n tempo frac gtrans => exact ⟨⟨rfl, rfl, rfl⟩, rfl, s.keptTrace, s.keptVoice _, ⟨_, rfl, rfl⟩⟩
  | leave x hx hptr q hq ws => exact (ChannelStep.rewrite ws hx.toKept hptr hq).leaveChannel
  | raise b a => exact ⟨⟨rfl, rfl, rfl⟩, rfl, s.keptTrace, s.keptVoice _, ⟨_, rfl, rfl⟩⟩

theorem State.updateVoice_channelStep (s : State) (c : Chan) : ChannelStep c s (s.updateVoice c) := by
  obtain ⟨x, ws, heq, hx, hptr⟩ := s.updateVoice_kept c
  rw [heq]
  exact ⟨⟨rfl, rfl, rfl⟩, rfl, ⟨ws, rfl⟩, ⟨x, rfl, hx, hptr _⟩, ⟨s.seq c, (s.set_seq_self c).symm, rfl⟩⟩

/-- A frame of a sustaining note: a voice update or none, the release trigger or none, the countdowns (R69). -/
theorem State.sustainNote_channelStep (s : State) (e : Byte) (c : Chan) : ChannelStep c s (s.sustainNote c e) := by
  obtain ⟨x, ws, heq, hx, hptr⟩ := s.updateVoice_kept c
  have hvoice : (s.updateVoice c).voice c = x := by rw [heq, State.voice, Quad.get_set_same]
  have htrace : (s.updateVoice c).trace = s.trace ++ ws := by rw [heq]
  rw [State.sustainNote_form, hvoice, htrace]
  refine ⟨⟨rfl, rfl, rfl⟩, rfl, ?_, ⟨_, rfl, ?_, ?_⟩, ⟨_, rfl, rfl⟩⟩
  · split
    · exact ⟨ws, rfl⟩
    · exact s.keptTrace
  · have hnoted : (s.voice c).Kept (if (s.voice c).hasInstr then x else s.voice c) := by
      split
      · exact hx
      · exact (Voice.Forward.refl _).toKept
    dsimp only
    split
    · exact hnoted.release
    · exact hnoted
  · intro hs
    have hnoted : Voice.Pointed (if (s.voice c).hasInstr then x else s.voice c) s.g.instrTable := by
      split
      · exact hptr _ hs
      · exact hs
    dsimp only
    split
    · exact hnoted.release
    · exact hnoted

theorem State.visitChannel_channelStep (s : State) (e : Byte) (c : Chan) : ChannelStep c s (s.visitChannel e c) := by
  have hself : ChannelStep c s s := ⟨⟨rfl, rfl, rfl⟩, rfl, s.keptTrace, s.keptVoice c, ⟨_, (s.set_seq_self c).symm, rfl⟩⟩
  obtain ⟨-, h⟩ | ⟨-, -, h⟩ | ⟨-, -, -, ⟨-, h⟩ | ⟨-, -, h⟩ | ⟨-, -, h⟩⟩ := s.visitChannel_cases e c <;> rw [h]
  · exact (s.updateVoice_channelStep c).leaveChannel
  · exact hself.leaveChannel
  · exact hself.withPhase _
  · exact (s.sustainNote_channelStep e c).leaveChannel
  · exact (s.sustainNote_channelStep e c).withPhase _

/-! ## The host's calls -/

/-- What an `init` call comes to in the state it is taken in: it returns at once in a faulted block; a song init; or the
globals, the cursors and the trace are rewritten, which keeps `Global.Sound`. -/
inductive HostEffect (s : State) : State → Prop
  | returned (info : CorruptSequence) (hfault : s.g.fault = some info) : HostEffect s (s.finishCall (.faulted info))
  | song (track : Byte) : HostEffect s ((s.initSong track).finishCall .ok)
  | globals (g : Global) (q : Quad Seq) (ws : List WriteEvent) (r : CallResult) (hg : s.g.Follows g)
      (hq : ∀ c, (q.get c).reserved = (s.seq c).reserved) :
      HostEffect s (State.finishCall { s with g := g, q := q, trace := s.trace ++ ws } r)

section Host

variable {s t : State}

/-- A call that rewrites the globals alone. -/
theorem HostEffect.globals_only {g : Global} (r : CallResult) (hg : s.g.Follows g) :
    HostEffect s ((s.setG g).finishCall r) := by
  have h := HostEffect.globals g s.q [] r hg fun _ => rfl
  rwa [List.append_nil] at h

/-- Stopping the SFX layer, muted or not, overrides no channel (R121). -/
theorem Global.follows_stopSfx (g : Global) (mute : Bool) :
    g.Follows { g with mute := mute, sfxCursor := 0, override := Quad.fill false } := by
  refine ⟨fun hg => ⟨fun c hc => ?_, hg.fade, hg.faultCode⟩, rfl, rfl⟩
  exact absurd ((Quad.get_fill c false).symm.trans hc) Bool.false_ne_true

/-- Silence-now in an unfaulted block: muted, the SFX layer stopped, the silence writes made (R128). -/
theorem exec_metaF2 (region : Byte) (hfault : s.g.fault = none) :
    exec (.metaF2 region) s = .next (State.finishCall
      { s with
        g := { s.g with mute := true, sfxCursor := 0, override := Quad.fill false }
        trace := s.trace ++ s.silenceWrites } .ok) := by
  refine (State.initCall_of_none hfault).trans ?_
  rw [State.silenceAll_eq]
  rfl

/-- Every `init` call has one of these effects (R124). -/
theorem exec_decodeHost_effect {track region : Byte} (h : exec (decodeHost track region) s = .next t) :
    HostEffect s t := by
  have effect {i : Instr} {u : State} (hi : exec i s = .next t) (hu : exec i s = .next u) (heffect : HostEffect s u) :
      HostEffect s t := by
    cases hu.symm.trans hi
    exact heffect
  cases hfault : s.g.fault with
  | some info =>
    obtain ⟨f, hf⟩ := exec_decodeHost_unlessFaulted track region s
    exact effect h (hf.trans (congrArg _ (State.unlessFaulted_of_some hfault))) (.returned info hfault)
  | none =>
    have hcall {f : State → State} : s.initCall f = .next ((f s).finishCall .ok) := State.initCall_of_none hfault
    unfold decodeHost at h
    split_ifs at h
    · exact effect h hcall (.song track)
    · exact effect h (exec_metaF0 region hfault)
        (.globals _ s.haltAll.q _ .ok (s.g.follows_stopSfx s.g.mute) fun c =>
          (congrArg Seq.reserved (s.haltAll_seq c) :))
    · exact effect h hcall (.globals_only .ok (s.g.follows_stopSfx s.g.mute))
    · exact effect h (exec_metaF2 region hfault) (.globals _ s.q _ .ok (s.g.follows_stopSfx true) fun _ => rfl)
    · exact effect h hcall (.globals_only .ok ⟨fun hg => ⟨hg.claimed, hg.fade, hg.faultCode⟩, rfl, rfl⟩)
    · exact effect h hcall (.globals_only .ok ⟨fun hg => ⟨hg.claimed, hg.fade, hg.faultCode⟩, rfl, rfl⟩)
    · exact effect h hcall (.globals_only .ok ⟨fun hg => ⟨hg.claimed, hg.fade, hg.faultCode⟩, rfl, rfl⟩)
    · exact effect h hcall (.globals_only .ok ⟨fun hg => ⟨hg.claimed, hg.fade, hg.faultCode⟩, rfl, rfl⟩)
    · exact effect h hcall (.globals_only .ok ⟨fun hg => ⟨hg.claimed, nofun, hg.faultCode⟩, rfl, rfl⟩)
    · exact effect h (congrArg Host.Outcome.next (State.unlessFaulted_of_none hfault))
        (.globals_only .refused ⟨fun hg => ⟨hg.claimed, hg.fade, hg.faultCode⟩, rfl, rfl⟩)

theorem State.initSong_keeps (s : State) (track : Byte) : s.Keeps (s.initSong track) := by
  obtain ⟨v, q, heq, hv, hq⟩ := s.initSong_form track
  rw [heq]
  refine ⟨rfl, rfl, ⟨_, rfl⟩, fun c => ?_, fun _ c => ?_, fun c _ => ?_⟩
  · show (s.voice c).Kept (v.get c)
    rw [hv c]
    exact (Voice.reset_forward _ _ _ _).toKept
  · show (v.get c).Pointed _
    rw [hv c]
    exact Voice.reset_pointed _ _ _ _
  · show (q.get c).reserved = false
    rw [hq c]
    show (0 : Byte).getLsbD 7 = false
    decide

theorem HostEffect.keeps (h : HostEffect s t) : s.Keeps t := by
  cases h with
  | returned info => exact (State.Keeps.refl s).of_same rfl rfl rfl rfl rfl rfl
  | song track => exact (s.initSong_keeps track).of_same rfl rfl rfl rfl rfl rfl
  | globals g q ws r hg hq =>
    refine ⟨rfl, rfl, ⟨ws, rfl⟩, fun c => (Voice.Forward.refl _).toKept, fun hs c => ?_, fun c hs => (hq c).trans hs⟩
    show (s.voice c).Pointed g.instrTable
    rw [hg.instrTable]
    exact hs c

/-- After an `init` call the globals keep their rules. -/
theorem HostEffect.sound (h : HostEffect s t) (hs : s.g.Sound) : t.g.Sound := by
  cases h with
  | returned info => exact hs
  | song track =>
    obtain ⟨v, q, heq, -, -⟩ := s.initSong_form track
    rw [heq]
    refine ⟨fun c hc => ?_, nofun, hs.faultCode⟩
    exact absurd ((Quad.get_fill c false).symm.trans hc) Bool.false_ne_true
  | globals g q ws r hg hq => exact hg.sound hs

theorem HostEffect.ready (h : HostEffect s t) : t.phase = .ready := by
  cases h <;> rfl

theorem HostEffect.fault (h : HostEffect s t) : t.g.fault = s.g.fault := by
  cases h with
  | returned info => rfl
  | song track =>
    obtain ⟨v, q, heq, -, -⟩ := s.initSong_form track
    rw [heq]
    rfl
  | globals g q ws r hg hq => exact hg.fault

end Host

end Sys2Proof.Machine
end

section
/-! PROOF of O58 and O59 (R117 to R119, R139), and what the SFX layer keeps of the whole state. A step is an effect applied
and then perhaps a fault; a start is a claim, the claimed voices' first settings, and then perhaps a fault. -/

namespace Sys2Proof.Machine

/-! ## What the layer obeys -/

/-- What an SFX step obeys, but for its globals and its fault (R119 items 1, 3, 4 and 5). -/
structure SfxObeyed (s t : State) : Prop where
  unclaimed : ∀ c, t.g.override.get c = false → t.voice c = s.voice c
  forward : ∀ c, (s.voice c).Forward (t.voice c)
  active : (∀ c, s.g.override.get c = true → s.g.sfxCursor ≠ 0) → ∀ c, t.g.override.get c = true → t.g.sfxCursor ≠ 0
  writes : ∃ ws : List SfxWrite, t.trace = s.trace ++ ws.map (fun w => w.event s.cfg) ∧
    (∀ w ∈ ws, t.g.override.get w.chan = true) ∧
    (∀ c w, (ws.filter fun x => x.chan = c ∧ x.reg = .hi).getLast? = some w → (t.voice c).hiCache = w.value) ∧
    ∀ c, (∀ w ∈ ws, w.chan = c → w.reg ≠ .hi) →
      (t.voice c).hiCache = (s.voice c).hiCache ∨ (t.voice c).hiCache = s.cfg.hiCacheReset
  pointers : (∀ c, (s.voice c).Pointed s.g.instrTable) → ∀ c, (t.voice c).Pointed t.g.instrTable

/-- A layer that does nothing obeys. -/
theorem SfxObeyed.refl (s : State) : SfxObeyed s s :=
  ⟨fun _ _ => rfl, fun c => .refl (s.voice c), id, ⟨[], (List.append_nil _).symm, nofun, nofun, fun _ _ => .inl rfl⟩,
    fun hs => hs⟩

/-- Every effect obeys, whatever it is. -/
theorem State.sfxApply_obeyed (s : State) (e : SfxEffect) : SfxObeyed s (s.sfxApply e) := by
  obtain ⟨v, heq, hv, hother⟩ := s.sfxApply_form e
  generalize hu : ({ s with g := { s.g with sfxCursor := e.sfxCursor, override := e.overrideBits } } : State) = u at heq hv
  have hvoice : ∀ c, (s.sfxApply e).voice c = v.get c := by
    intro c
    rw [heq]
    rfl
  have hg : (s.sfxApply e).g = { s.g with sfxCursor := e.sfxCursor, override := e.overrideBits } := by
    rw [heq, ← hu]
  have hold : ∀ c, u.voice c = s.voice c := by
    intro c
    rw [← hu]
    rfl
  refine ⟨fun c hc => ?unclaimed, fun c => ?forward, fun _ c hc => ?active,
    ⟨e.writes.filter fun w => e.overrideBits.get w.chan, ?trace, ?claimed, ?last, ?none⟩, fun hs c => ?pointers⟩
  case unclaimed =>
    rw [hg] at hc
    rw [hvoice, hother c hc]
  case forward =>
    rw [hvoice, hv, ← hold]
    exact (u.sfxVoiceOf_forward c _).trans (.of_same rfl rfl rfl rfl rfl)
  case active =>
    rw [hg] at hc ⊢
    exact e.override_active c hc
  case trace => rw [heq]
  case claimed =>
    intro w hw
    rw [hg]
    exact (List.mem_filter.mp hw).2
  case last =>
    intro c w hw
    rw [hvoice, hv]
    exact lastHigh_of_getLast c _ _ w hw
  case none =>
    intro c hw
    rw [hvoice, hv, ← hold]
    show lastHigh c _ _ = _ ∨ lastHigh c _ _ = _
    rw [lastHigh_of_not_mem c _ _ hw]
    have hcache := u.sfxVoiceOf_hiCache c (e.voices.get c)
    rwa [← hu] at hcache ⊢
  case pointers =>
    rw [hvoice, hv, hg]
    have hptr := u.sfxVoiceOf_instr c (e.voices.get c)
    rw [← hu] at hptr ⊢
    exact hptr (hs c)

/-- SFX_STEP does nothing, or applies an effect that may end in a fault (R117). -/
theorem State.sfxStep_cases (s : State) :
    s.sfxStep = s ∨ ∃ e : SfxEffect, s.sfxStep = (s.sfxApply e).sfxFault e.corrupt := by
  unfold State.sfxStep
  cases s.cfg.sfxStep with
  | reference => exact .inl rfl
  | free n => exact .inr ⟨_, rfl⟩

/-! ## A step of the layer -/

/-- An effect changes of the rest of the state nothing: not the other globals, the sequencers, what is only read, or the
call. -/
theorem State.sfxApply_frame (s : State) (e : SfxEffect) :
    s.sfxApply e = { s with
      g := { s.g with sfxCursor := e.sfxCursor, override := e.overrideBits }
      v := (s.sfxApply e).v
      trace := (s.sfxApply e).trace } := by
  obtain ⟨v, heq, -⟩ := s.sfxApply_form e
  rw [heq]

/-- The fault of a state against the one before it: as it was, or a CorruptSequence of R136's shape at the SFX cursor, which
ended the call (R119 item 6). -/
def State.RaisedAtCursor (s t : State) : Prop :=
  t.g.fault = s.g.fault ∨ ∃ c, t.phase = .ready ∧
    (let info : CorruptSequence := ⟨1, c, t.g.sfxCursor, s.memRead t.g.sfxCursor⟩
     t.g.fault = some info ∧ t.result = some (.faulted info))

/-- The fault of the layer changes nothing else, and has the shape the layer's faults have. -/
theorem State.sfxFault_spec {s u : State} (corrupt : Option Chan) (hfault : u.g.fault = s.g.fault) (hrom : u.rom = s.rom) :
    s.RaisedAtCursor (u.sfxFault corrupt) ∧
      u.sfxFault corrupt = { u with
        g := { u.g with fault := (u.sfxFault corrupt).g.fault }
        phase := (u.sfxFault corrupt).phase
        result := (u.sfxFault corrupt).result } := by
  obtain ⟨-, h⟩ | ⟨c, -, h⟩ := u.sfxFault_cases corrupt
  · rw [h]
    exact ⟨.inl hfault, rfl⟩
  · rw [h]
    refine ⟨.inr ⟨c, rfl, ?_⟩, rfl⟩
    simp only [State.memRead, ← hrom]
    exact ⟨rfl, rfl⟩

/-- What an SFX step does, whatever the layer is (R117, R119). -/
structure SfxStepped (s t : State) : Prop where
  globals : t.g = { s.g with sfxCursor := t.g.sfxCursor, override := t.g.override, fault := t.g.fault }
  raised : s.RaisedAtCursor t
  frame : t = { s with g := t.g, v := t.v, phase := t.phase, trace := t.trace, result := t.result }
  obeyed : SfxObeyed s t

theorem State.sfxStep_spec (s : State) : SfxStepped s s.sfxStep := by
  obtain hstep | ⟨e, hstep⟩ := s.sfxStep_cases
  · rw [hstep]
    exact ⟨rfl, .inl rfl, rfl, .refl s⟩
  · have hframe := s.sfxApply_frame e
    have hobeyed := s.sfxApply_obeyed e
    rw [hstep]
    generalize s.sfxApply e = u at hframe hobeyed
    obtain ⟨hraised, hfault⟩ := State.sfxFault_spec (s := s) (u := u) e.corrupt (by rw [hframe]) (by rw [hframe])
    generalize u.sfxFault e.corrupt = t at hraised hfault
    refine ⟨?_, hraised, ?_, ?_⟩
    · rw [hfault, hframe]
    · rw [hfault, hframe]
    · rw [hfault]
      exact ⟨hobeyed.unclaimed, hobeyed.forward, hobeyed.active, hobeyed.writes, hobeyed.pointers⟩

/-! ## A start of the layer -/

/-- What a start makes of a voice, claimed or not (R118). -/
structure SfxStartedVoice (s : State) (c : Chan) (claimed : Bool) (y : Voice) : Prop where
  unclaimed : claimed = false → y = s.voice c
  reset : claimed = true → y.id = (s.voice c).id ∧ y.hiCache = s.cfg.hiCacheReset ∧ y.phase = .idle
  forward : (s.voice c).Forward y
  pointed : (s.voice c).Pointed s.g.instrTable → y.Pointed s.g.instrTable

theorem State.sfxClaim_voice (s : State) (addr : Word) (claim : Quad Bool) (c : Chan) :
    (s.sfxClaim addr claim).voice c =
      if claim.get c then { Voice.reset c s.g.instrTable s.cfg.hiCacheReset with id := (s.voice c).id }
      else s.voice c := by
  obtain ⟨v, heq, hv⟩ := s.sfxClaim_form addr claim
  rw [heq]
  exact hv c

/-- The claim alone resets the claimed voices. -/
theorem State.sfxClaim_startedVoice (s : State) (addr : Word) (claim : Quad Bool) (c : Chan) :
    SfxStartedVoice s c (claim.get c) ((s.sfxClaim addr claim).voice c) := by
  rw [State.sfxClaim_voice]
  cases claim.get c
  · exact ⟨fun _ => rfl, nofun, .refl _, id⟩
  · exact ⟨nofun, fun _ => ⟨rfl, rfl, rfl⟩, Voice.reset_forward _ _ _ _, fun _ => Voice.reset_pointed _ _ _ _⟩

/-- The first settings leave a reset voice idle and its cache as it is, and an unclaimed voice alone. -/
theorem State.sfxClaim_setVoice (s : State) (addr : Word) (claim : Quad Bool) (c : Chan) (f : SfxVoice) :
    SfxStartedVoice s c (claim.get c) ((s.sfxClaim addr claim).sfxVoiceOf c f) := by
  obtain ⟨hunclaimed, hreset⟩ := s.sfxClaim_voiceOf addr claim c f
  have hclaim := s.sfxClaim_startedVoice addr claim c
  have htable : (s.sfxClaim addr claim).g.instrTable = s.g.instrTable := by
    obtain ⟨v, heq, -⟩ := s.sfxClaim_form addr claim
    rw [heq]
  refine ⟨hunclaimed, hreset, hclaim.forward.trans (State.sfxVoiceOf_forward _ c f), fun hs => ?_⟩
  have hptr := (s.sfxClaim addr claim).sfxVoiceOf_instr c f
  rw [htable] at hptr
  exact hptr (hclaim.pointed hs)

/-- An accepted start, whatever the layer is: a claim, the voices as a start makes them, no write, and perhaps a fault. -/
theorem State.sfxStart_accepted {s : State} {addr : Word} {claim : Quad Bool} (hfault : s.g.fault = none)
    (haddr : addr ≠ 0) (hclaim : anyChan claim = true) :
    ∃ claimed v corrupt, (∀ c, SfxStartedVoice s c (claimed.get c) (v.get c)) ∧
      s.sfxStart addr claim = State.sfxFault (State.finishCall
        { s with g := { s.g with override := claimed, sfxCursor := addr }, v := v } .ok) corrupt := by
  obtain ⟨r, hsome, -⟩ | ⟨-, hrefused, -⟩ | ⟨-, -, -, -, hstart⟩ | ⟨n, -, -, -, -, e, -, hstart⟩ :=
    s.sfxStart_cases addr claim
  · cases hfault.symm.trans hsome
  · rw [hclaim] at hrefused
    exact absurd (hrefused.resolve_right Bool.noConfusion) haddr
  · obtain ⟨v, heq, -⟩ := s.sfxClaim_form addr claim
    refine ⟨claim, v, none, fun c => ?_, by rw [hstart, heq]; rfl⟩
    have hvoice := s.sfxClaim_startedVoice addr claim c
    rwa [heq] at hvoice
  · obtain ⟨v, heq, hv⟩ := s.sfxClaimVoices_form addr e.claim e.voices
    refine ⟨e.claim, v, e.corrupt, fun c => ?_, by rw [hstart, heq]⟩
    rw [hv c]
    exact s.sfxClaim_setVoice addr e.claim c _

theorem anyChan_iff (claim : Quad Bool) : anyChan claim = true ↔ ∃ c, claim.get c = true := by
  simp only [anyChan, Bool.or_eq_true]
  constructor
  · rintro (((h | h) | h) | h)
    exacts [⟨.i0, h⟩, ⟨.i1, h⟩, ⟨.i2, h⟩, ⟨.i3, h⟩]
  · rintro ⟨c, h⟩
    cases c
    exacts [.inl (.inl (.inl h)), .inl (.inl (.inr h)), .inl (.inr h), .inr h]

theorem step_sfxStart {s : State} {addr : Word} {claim : Quad Bool} {rest : List HostCall} (hready : s.phase = .ready)
    (hcalls : s.calls = .sfxStart addr claim :: rest) :
    step s = .next ({ s with calls := rest }.sfxStart addr claim) := by
  rw [step_ready hready, State.startCall, hcalls]

/-! ## The frame that an SFX step begins -/

theorem Global.elapsedTicks_toNat (g : Global) : g.elapsedTicks.toNat = (g.frac.toNat + g.tempo.toNat) / 256 % 256 := by
  simp only [Global.elapsedTicks, Global.tempoSum, BitVec.toNat_ofNat]

theorem Global.accumulate_frac_toNat (g : Global) :
    g.accumulate.frac.toNat = (g.frac.toNat + g.tempo.toNat) % 256 := by
  simp only [Global.accumulate, Global.tempoSum, BitVec.toNat_ofNat]
  omega

section Running

variable {s : State} (hfault : s.g.fault = none) (hsuspend : s.g.suspend = false)
include hfault hsuspend

/-- A frame with an SFX event runs the SFX step, and unless that faults begins (R63). -/
theorem State.startAdvance_of_event (hevent : s.g.sfxCursor ≠ 0) :
    s.startAdvance = if s.sfxStep.g.fault.isSome then s.sfxStep else s.sfxStep.beginFrame := by
  rw [State.startAdvance, State.unlessFaulted_of_none hfault, hsuspend, if_neg Bool.false_ne_true]
  simp only [if_neg hevent]

/-- With no SFX event, or the reference layer, the frame begins at once (R63). -/
theorem State.startAdvance_of_quiet (hquiet : s.g.sfxCursor = 0 ∨ s.cfg.sfxStep = .reference) :
    s.startAdvance = s.beginFrame := by
  have hstep : (if s.g.sfxCursor = 0 then s else s.sfxStep) = s := by
    split
    · rfl
    · rw [State.sfxStep, hquiet.resolve_left ‹_›]
  rw [State.startAdvance, State.unlessFaulted_of_none hfault, hsuspend, if_neg Bool.false_ne_true]
  simp only [hstep, hfault, Option.isSome_none, if_neg Bool.false_ne_true]

end Running

/-- Settles O59: a step's obligations, the frame after it, and a start's, each from what the layer can do. -/
theorem sfxStepKeepsItsObligations : Obligations.SfxStepKeepsItsObligations := by
  unfold Obligations.SfxStepKeepsItsObligations
  intro Raised Pointers
  refine ⟨fun s hactive => ?step, fun s rest hready hcalls hfault hsuspend hevent => ?frame,
    fun s addr claim rest hready hcalls hfault haddr hclaim => ?start⟩
  case step =>
    obtain ⟨hg, hraised, hframe, hobeyed⟩ := s.sfxStep_spec
    refine ⟨hg, hraised, s.sfxStep_q, ?_, ?_, ?_, hobeyed.unclaimed, fun c => (hobeyed.forward c).id, hobeyed.active hactive,
      hobeyed.writes, hobeyed.pointers, s.sfxStep_seq⟩ <;> rw [hframe]
  case frame =>
    intro u
    have hstart : { s with calls := rest }.startAdvance = if u.g.fault.isSome then u else u.beginFrame :=
      State.startAdvance_of_event hfault hsuspend hevent
    rw [step_advance hready hcalls, hstart]
    refine ⟨_, rfl, fun hsome => ?_, fun hnone => ?_⟩
    · rw [if_pos (Option.isSome_iff_ne_none.mpr hsome)]
    · rw [hnone]
      exact ⟨u.g.elapsedTicks, rfl, u.g.elapsedTicks_toNat, u.g.accumulate_frac_toNat⟩
  case start =>
    have hseq : ∀ q', step { s with q := q' } = .next { { s with calls := rest }.sfxStart addr claim with q := q' } :=
      fun q' => (step_sfxStart (s := { s with q := q' }) hready hcalls).trans
        (congrArg _ (State.sfxStart_seq { s with calls := rest } addr claim q'))
    obtain ⟨claimed, v, corrupt, hvoices, heq⟩ :=
      State.sfxStart_accepted (s := { s with calls := rest }) hfault haddr ((anyChan_iff claim).mpr hclaim)
    rw [step_sfxStart hready hcalls]
    have hpointers : Pointers s → ∀ c, (v.get c).Pointed s.g.instrTable := fun hs c => (hvoices c).pointed (hs c)
    have hunclaimed := fun c => (hvoices c).unclaimed
    have hreset := fun c => (hvoices c).reset
    refine ⟨_, rfl, ?_⟩
    rw [heq] at hseq ⊢
    cases corrupt with
    | none =>
      exact ⟨rfl, .inl rfl, fun _ => rfl, rfl, rfl, rfl, rfl, rfl, rfl, hunclaimed, hreset, hpointers, hseq⟩
    | some c =>
      exact ⟨rfl, .inr ⟨c, rfl, rfl, rfl⟩, nofun, rfl, rfl, rfl, rfl, rfl, rfl, hunclaimed, hreset, hpointers, hseq⟩

/-! ## The reference start -/

section Start

variable {s : State} {addr : Word} {claim : Quad Bool} (hfault : s.g.fault = none)
include hfault

theorem State.sfxStart_of_reference (haddr : addr ≠ 0) (hclaim : anyChan claim = true)
    (href : s.cfg.sfxStart = .reference) : s.sfxStart addr claim = (s.sfxClaim addr claim).finishCall .ok := by
  have haccepted : ¬ (addr = 0 ∨ anyChan claim = false) := by
    rw [hclaim]
    exact not_or.mpr ⟨haddr, Bool.noConfusion⟩
  rw [State.sfxStart, State.unlessFaulted_of_none hfault, if_neg haccepted, href]

theorem State.sfxStart_of_senseless (h : addr = 0 ∨ anyChan claim = false) :
    s.sfxStart addr claim = s.refuseCall (.sfxStart addr claim) := by
  rw [State.sfxStart, State.unlessFaulted_of_none hfault, if_pos h]

end Start

/-- Settles O58: an accepted start is the claim, a senseless one a refused call. -/
theorem sfxStartClaimsChannels : Obligations.SfxStartClaimsChannels := by
  intro s addr claim rest hready hcalls hfault
  rw [step_sfxStart hready hcalls]
  refine ⟨fun haddr hclaim href => ⟨_, rfl, ?_⟩, fun hsenseless => ?_⟩
  · obtain ⟨v, heq, hv⟩ := State.sfxClaim_form { s with calls := rest } addr claim
    have hstart : { s with calls := rest }.sfxStart addr claim =
        (State.sfxClaim { s with calls := rest } addr claim).finishCall .ok :=
      State.sfxStart_of_reference hfault haddr ((anyChan_iff claim).mpr hclaim) href
    rw [hstart, heq]
    exact ⟨rfl, rfl, hv, rfl, rfl, rfl, rfl, rfl, rfl⟩
  · have hnone : addr = 0 ∨ anyChan claim = false := hsenseless.imp_right fun h => by
      rw [← Bool.not_eq_true, anyChan_iff]
      rintro ⟨c, hc⟩
      rw [h c] at hc
      cases hc
    have hstart : { s with calls := rest }.sfxStart addr claim = { s with calls := rest }.refuseCall (.sfxStart addr claim) :=
      State.sfxStart_of_senseless hfault hnone
    rw [hstart]
    simp only [State.refuseCall, State.finishCall, hready]
    cases s.g.refused <;> rfl

/-! ## What the layer keeps of the state -/

theorem SfxObeyed.keeps {s t : State} (h : SfxObeyed s t) (hrom : t.rom = s.rom) (hcfg : t.cfg = s.cfg)
    (hq : t.q = s.q) : s.Keeps t where
  rom := hrom
  cfg := hcfg
  trace := h.writes.imp' _ fun _ hw => hw.1
  voices c := (h.forward c).toKept
  pointers := h.pointers
  reserved c hs := by
    have hseq : t.seq c = s.seq c := congrArg (Quad.get · c) hq
    exact hseq ▸ hs

/-- A CorruptSequence fault of code 1, or none, keeps the rules of the globals. -/
theorem Global.Sound.of_sfx {g h : Global} (hg : g.Sound)
    (hframe : h = { g with sfxCursor := h.sfxCursor, override := h.override, fault := h.fault })
    (hactive : ∀ c, h.override.get c = true → h.sfxCursor ≠ 0)
    (hfault : h.fault = g.fault ∨ ∃ info : CorruptSequence, info.code = 1 ∧ h.fault = some info) : h.Sound := by
  refine ⟨hactive, ?_, fun r hr => ?_⟩
  · rw [hframe]
    exact hg.fade
  · obtain hsame | ⟨info, hcode, hinfo⟩ := hfault
    · exact hg.faultCode r (hsame ▸ hr)
    · cases hinfo.symm.trans hr
      exact hcode

theorem State.RaisedAtCursor.fault {s t : State} (h : s.RaisedAtCursor t) :
    t.g.fault = s.g.fault ∨ ∃ info : CorruptSequence, info.code = 1 ∧ t.g.fault = some info :=
  h.imp_right fun ⟨_, _, hinfo, _⟩ => ⟨_, rfl, hinfo⟩

theorem State.sfxStep_keeps (s : State) : s.Keeps s.sfxStep := by
  obtain ⟨-, -, hframe, hobeyed⟩ := s.sfxStep_spec
  exact hobeyed.keeps (by rw [hframe]) (by rw [hframe]) s.sfxStep_q

theorem State.sfxStep_sound {s : State} (hs : s.g.Sound) : s.sfxStep.g.Sound := by
  obtain ⟨hg, hraised, -, hobeyed⟩ := s.sfxStep_spec
  exact hs.of_sfx hg (hobeyed.active hs.claimed) hraised.fault

/-- A start keeps what every step keeps, and the rules of the globals. -/
theorem State.sfxStart_keeps (s : State) (addr : Word) (claim : Quad Bool) :
    s.Keeps (s.sfxStart addr claim) ∧ (s.g.Sound → (s.sfxStart addr claim).g.Sound) := by
  cases hfault : s.g.fault with
  | some info =>
    rw [State.sfxStart, State.unlessFaulted_of_some hfault]
    exact ⟨(State.Keeps.refl s).of_same rfl rfl rfl rfl rfl rfl, id⟩
  | none =>
    by_cases hsenseless : addr = 0 ∨ anyChan claim = false
    · rw [State.sfxStart_of_senseless hfault hsenseless]
      exact ⟨(State.Keeps.refl s).of_same rfl rfl rfl rfl rfl rfl, fun h => ⟨h.claimed, h.fade, h.faultCode⟩⟩
    · obtain ⟨haddr, hclaim⟩ := not_or.mp hsenseless
      obtain ⟨claimed, v, corrupt, hvoices, heq⟩ :=
        State.sfxStart_accepted hfault haddr (Bool.eq_true_of_not_eq_false hclaim)
      have hkeeps : s.Keeps { s with v := v } :=
        ⟨rfl, rfl, s.keptTrace, fun c => (hvoices c).forward.toKept, fun hs c => (hvoices c).pointed (hs c), fun _ h => h⟩
      rw [heq]
      obtain ⟨hraised, hframe⟩ := State.sfxFault_spec (s := s) (u := State.finishCall
        { s with g := { s.g with override := claimed, sfxCursor := addr }, v := v } .ok) corrupt rfl rfl
      generalize State.sfxFault _ corrupt = t at hraised hframe
      have hg : t.g = { s.g with override := claimed, sfxCursor := addr, fault := t.g.fault } :=
        congrArg State.g hframe
      refine ⟨hkeeps.of_same (congrArg State.rom hframe :) (congrArg State.cfg hframe :)
        (congrArg State.trace hframe :) (congrArg State.v hframe :) (congrArg State.q hframe :)
        (by rw [hg]),
        fun hs => hs.of_sfx ?_ (fun _ _ => ?_) hraised.fault⟩
      · rw [hg]
      · rw [hg]
        exact haddr

end Sys2Proof.Machine
end

section
/-! PROOF of O7, O8, O11 to O15 and O17. What every step keeps, by the step's kind; how the globals and the phase go on, by the
same kinds; and the whole-machine rules from the two. -/

namespace Sys2Proof.Machine

/-! ## Every step -/

/-- A fade update writes two fields (R66). -/
theorem Global.fadeUpdate_frame (g : Global) (e : Byte) :
    g.fadeUpdate e =
      { g with fadeCounter := (g.fadeUpdate e).fadeCounter, fadeComplete := (g.fadeUpdate e).fadeComplete } := by
  unfold Global.fadeUpdate
  split
  · split <;> rfl
  · rfl

theorem State.startAdvance_keeps (s : State) : s.Keeps s.startAdvance := by
  have hsame : s.Keeps s := .refl s
  obtain ⟨r, -, h⟩ | ⟨-, -, h⟩ | ⟨-, -, u, hu, h⟩ := s.startAdvance_cases
  · rw [h]
    exact hsame.of_same rfl rfl rfl rfl rfl rfl
  · rw [h]
    exact hsame.of_same rfl rfl rfl rfl rfl rfl
  · have hstepped : s.Keeps u := by
      rw [hu]
      split
      · exact hsame
      · exact s.sfxStep_keeps
    obtain ⟨-, h⟩ | ⟨-, h⟩ := h
    · rw [h]
      exact hstepped
    · rw [h]
      exact hstepped.of_same rfl rfl rfl rfl rfl rfl

/-- What every step keeps, whatever the call and the SFX layer are. -/
theorem step_keeps {s t : State} (h : step s = .next t) : s.Keeps t := by
  obtain ⟨-, -, rfl⟩ | ⟨rest, -, -, rfl⟩ | ⟨track, region, rest, -, -, h⟩ | ⟨addr, claim, rest, -, -, rfl⟩ | ⟨e, c, -, rfl⟩ |
    ⟨e, c, -, h⟩ | ⟨e, -, rfl⟩ := step_cases h
  · exact .refl _
  · exact (State.startAdvance_keeps { s with calls := rest }).of_calls
  · exact (exec_decodeHost_effect h).keeps.of_calls
  · exact (State.sfxStart_keeps { s with calls := rest } addr claim).1.of_calls
  · exact (s.visitChannel_channelStep e c).keeps
  · exact (exec_effect (s.instrAt_isBytecode _) h).channelStep.keeps
  · refine (State.Keeps.refl s).of_same rfl rfl rfl rfl rfl ?_
    show (s.g.fadeUpdate e).instrTable = _
    rw [Global.fadeUpdate_frame]

/-! ## The globals and the phase -/

/-- The clauses of the invariant on the globals and the phase. -/
structure State.Controlled (s : State) : Prop where
  sound : s.g.Sound
  running : s.phase ≠ .ready → s.g.fault = none ∧ s.g.suspend = false
  looping : ∀ e c, s.phase = .loop e c → s.g.mute = false ∧ s.g.override.get c = false

theorem State.Inv.controlled {s : State} (h : s.Inv) : s.Controlled :=
  ⟨⟨h.claimed, h.fade, h.faultCode⟩, h.running, h.looping⟩

/-- Between two calls the phase asks for nothing. -/
theorem State.Controlled.of_ready {s : State} (hsound : s.g.Sound) (hready : s.phase = .ready) : s.Controlled :=
  ⟨hsound, fun h => absurd hready h, fun _ _ h => nomatch hready.symm.trans h⟩

theorem afterChannel_ne_loop (e e' : Byte) (c c' : Chan) : afterChannel e c ≠ .loop e' c' := by
  cases c <;> exact Phase.noConfusion

/-- After a channel's visit or command loop no command loop runs. -/
theorem State.Controlled.of_afterChannel {s : State} {e : Byte} {c : Chan} (hsound : s.g.Sound)
    (hrunning : s.g.fault = none ∧ s.g.suspend = false) (hphase : s.phase = afterChannel e c) : s.Controlled :=
  ⟨hsound, fun _ => hrunning, fun _ _ h => absurd (hphase.symm.trans h) (afterChannel_ne_loop _ _ _ _)⟩

theorem State.Controlled.of_leave {s : State} {e : Byte} {c : Chan} (hsound : s.g.Sound)
    (hrunning : s.g.fault = none ∧ s.g.suspend = false) (hphase : s.phase = .loop e c) : s.leaveChannel.Controlled := by
  rw [State.leaveChannel_of_loop hphase]
  exact .of_afterChannel hsound hrunning rfl

@[simp] theorem State.updateVoice_g (s : State) (c : Chan) : (s.updateVoice c).g = s.g := by
  obtain ⟨x, ws, heq, -⟩ := s.updateVoice_kept c
  rw [heq]

@[simp] theorem State.updateVoice_phase (s : State) (c : Chan) : (s.updateVoice c).phase = s.phase := by
  obtain ⟨x, ws, heq, -⟩ := s.updateVoice_kept c
  rw [heq]

/-- A visit leaves the globals, and enters a command loop only unmuted and on a channel that is not overridden (R65, R69). -/
theorem State.visitChannel_control {s : State} {e : Byte} {c : Chan} (hphase : s.phase = .visit e c) :
    (s.visitChannel e c).g = s.g ∧
      ((s.visitChannel e c).phase = afterChannel e c ∨
        ((s.visitChannel e c).phase = .loop e c ∧ s.g.mute = false ∧ s.g.override.get c = false)) := by
  obtain ⟨-, h⟩ | ⟨-, -, h⟩ | ⟨ho, hm, -, ⟨-, h⟩ | ⟨-, -, h⟩ | ⟨-, -, h⟩⟩ := s.visitChannel_cases e c <;> rw [h]
  · rw [State.leaveChannel_of_visit ((s.updateVoice_phase c).trans hphase)]
    exact ⟨s.updateVoice_g c, .inl rfl⟩
  · rw [State.leaveChannel_of_visit hphase]
    exact ⟨rfl, .inl rfl⟩
  · exact ⟨rfl, .inr ⟨rfl, hm, ho⟩⟩
  · rw [State.leaveChannel_of_visit ((s.sustainNote_phase c e).trans hphase)]
    exact ⟨s.sustainNote_g c e, .inl rfl⟩
  · exact ⟨s.sustainNote_g c e, .inr ⟨rfl, hm, ho⟩⟩

theorem State.sfxStart_ready (s : State) (addr : Word) (claim : Quad Bool) : (s.sfxStart addr claim).phase = .ready := by
  obtain ⟨r, -, h⟩ | ⟨-, -, h⟩ | ⟨-, -, -, -, h⟩ | ⟨n, -, -, -, -, e, -, h⟩ := s.sfxStart_cases addr claim <;> rw [h]
  · rfl
  · rfl
  · rfl
  · cases e.corrupt <;> rfl

/-- The start of an `advance()` ends the call, or begins a frame in a running block (R63). -/
theorem State.startAdvance_controlled {s : State} (hs : s.g.Sound) (hready : s.phase = .ready) :
    s.startAdvance.Controlled := by
  obtain ⟨r, -, h⟩ | ⟨-, -, h⟩ | ⟨hfault, hsuspend, u, hu, h⟩ := s.startAdvance_cases
  · rw [h]
    exact .of_ready hs rfl
  · rw [h]
    exact .of_ready hs rfl
  · have hstepped : u.g.Sound ∧ u.g.suspend = false ∧ (u.g.fault.isSome = true → u.phase = .ready) := by
      rw [hu]
      split
      · exact ⟨hs, hsuspend, fun _ => hready⟩
      · obtain ⟨hg, hraised, -⟩ := s.sfxStep_spec
        refine ⟨State.sfxStep_sound hs, by rw [hg]; exact hsuspend, fun hsome => ?_⟩
        obtain hsame | ⟨_, hphase, -⟩ := hraised
        · rw [hsame, hfault] at hsome
          cases hsome
        · exact hphase
    obtain ⟨hsound, hrunning, hended⟩ := hstepped
    obtain ⟨hsome, h⟩ | ⟨hnone, h⟩ := h
    · rw [h]
      exact .of_ready hsound (hended hsome)
    · rw [h]
      exact ⟨⟨hsound.claimed, hsound.fade, hsound.faultCode⟩, fun _ => ⟨hnone, hrunning⟩, fun _ _ hloop => nomatch hloop⟩

/-- A bytecode instruction goes on with the command loop, leaves the channel, or ends the call with a fault. -/
theorem BytecodeEffect.controlled {i : Instr} {s t : State} {e : Byte} {c : Chan} (h : BytecodeEffect i s t)
    (hs : s.Controlled) (hphase : s.phase = .loop e c) : t.Controlled := by
  obtain ⟨hsound, hrunning, hlooping⟩ := hs
  cases h with
  | sequencer q => exact ⟨hsound, hrunning, hlooping⟩
  | voice x => exact ⟨hsound, hrunning, hlooping⟩
  | globals n tempo frac gtrans => exact ⟨⟨hsound.claimed, hsound.fade, hsound.faultCode⟩, hrunning, hlooping⟩
  | leave x hx hptr q hq ws =>
    exact .of_leave hsound (hrunning (by rw [hphase]; exact Phase.noConfusion)) hphase
  | raise b a =>
    refine .of_ready ⟨hsound.claimed, hsound.fade, fun r hr => ?_⟩ rfl
    cases hr
    rfl

/-- A completed fade is at 0 and stays active (R66). -/
theorem Global.fadeUpdate_sound {g : Global} (e : Byte) (h : g.Sound) : (g.fadeUpdate e).Sound := by
  unfold Global.fadeUpdate
  split
  next hactive =>
    split
    · exact ⟨h.claimed, fun _ => ⟨hactive, rfl⟩, h.faultCode⟩
    next hcounter =>
      refine ⟨h.claimed, fun hcomplete => ?_, h.faultCode⟩
      obtain ⟨-, hzero⟩ := h.fade hcomplete
      rw [hzero] at hcounter
      exact absurd (Nat.zero_le _) hcounter
  next => exact h

theorem step_controlled {s t : State} (hs : s.Controlled) (h : step s = .next t) : t.Controlled := by
  obtain ⟨-, -, rfl⟩ | ⟨rest, hready, -, rfl⟩ | ⟨track, region, rest, -, -, h⟩ | ⟨addr, claim, rest, -, -, rfl⟩ |
    ⟨e, c, hphase, rfl⟩ | ⟨e, c, hphase, h⟩ | ⟨e, -, rfl⟩ := step_cases h
  · exact hs
  · exact State.startAdvance_controlled (s := { s with calls := rest }) hs.sound hready
  · have heffect := exec_decodeHost_effect h
    exact .of_ready (heffect.sound hs.sound) heffect.ready
  · exact .of_ready ((State.sfxStart_keeps { s with calls := rest } addr claim).2 hs.sound) (State.sfxStart_ready _ _ _)
  · have hrunning := hs.running (by rw [hphase]; exact Phase.noConfusion)
    obtain ⟨hg, hafter | ⟨hloop, hmute, hover⟩⟩ := State.visitChannel_control hphase
    · exact .of_afterChannel (hg ▸ hs.sound) (hg ▸ hrunning) hafter
    · refine ⟨hg ▸ hs.sound, fun _ => hg ▸ hrunning, fun e' c' hloop' => ?_⟩
      cases hloop.symm.trans hloop'
      exact hg ▸ ⟨hmute, hover⟩
  · exact (exec_effect (s.instrAt_isBytecode _) h).controlled hs hphase
  · exact .of_ready (Global.fadeUpdate_sound e hs.sound) rfl

/-- Settles O8: the clauses on the ROM, the voices and the sequencers are what every step keeps, the others are those on the
globals and the phase. -/
theorem stepKeepsInvariant : Obligations.StepKeepsInvariant := by
  intro s t hinv hstep
  have hkeeps := step_keeps hstep
  obtain ⟨hsound, hrunning, hlooping⟩ := step_controlled hinv.controlled hstep
  exact
    { rom := hkeeps.rom ▸ hinv.rom
      ids := fun c => (hkeeps.voices c).id.trans (hinv.ids c)
      instr := hkeeps.pointers hinv.instr
      level := fun c => (hkeeps.voices c).level (hinv.level c)
      porta := fun c => (hkeeps.voices c).porta (hinv.porta c)
      reserved := fun c => hkeeps.reserved c (hinv.reserved c)
      claimed := hsound.claimed
      fade := hsound.fade
      faultCode := hsound.faultCode
      running := hrunning
      looping := hlooping }

/-! ## The rules of every run -/

/-- Settles O11: no step changes either, so no run does. -/
theorem romAndParametersNeverChange : Obligations.RomAndParametersNeverChange := by
  intro n s t hrun
  have hsame : t.rom = s.rom ∧ t.cfg = s.cfg :=
    run_invariant (P := fun u => u.rom = s.rom ∧ u.cfg = s.cfg)
      (fun _ _ ⟨hrom, hcfg⟩ hstep => ⟨(step_keeps hstep).rom.trans hrom, (step_keeps hstep).cfg.trans hcfg⟩) ⟨rfl, rfl⟩ hrun
  obtain ⟨hrom, hcfg⟩ := hsame
  exact ⟨hrom, hcfg, fun a => by rw [State.memRead, hrom, State.memRead]⟩

/-- Settles O12: each step appends to the trace. -/
theorem traceOnlyGrows : Obligations.TraceOnlyGrows := by
  intro n s t hrun
  refine run_invariant (P := fun u => ∃ ws, u.trace = s.trace ++ ws) (fun u v ⟨ws, hu⟩ hstep => ?_) s.keptTrace hrun
  obtain ⟨ws', hv⟩ := (step_keeps hstep).trace
  exact ⟨ws ++ ws', by rw [hv, hu, List.append_assoc]⟩

/-- Settles O14: it is one of the things every step keeps of a voice. -/
theorem envelopePhaseOnlyAdvances : Obligations.EnvelopePhaseOnlyAdvances :=
  fun _ _ c hstep => ((step_keeps hstep).voices c).phase

/-- Settles O13: an instruction's effect is one on its channel, of whose globals it can reach four. -/
theorem bytecodeCannotReachHostState : Obligations.BytecodeCannotReachHostState := by
  intro i s t hi hexec
  have hstep := (exec_effect hi hexec).channelStep
  rw [hstep.globals]
  exact ⟨rfl, rfl, rfl, rfl, rfl, rfl, rfl, rfl, rfl, rfl, rfl, hstep.onlySeq, hstep.onlyVoice, hstep.sameInputs⟩

/-- Every step answers a next state. -/
theorem step_next (s : State) : ∃ t, step s = .next t := by
  cases hphase : s.phase with
  | ready =>
    rw [step_ready hphase]
    unfold State.startCall
    split
    · exact ⟨_, rfl⟩
    · exact ⟨_, rfl⟩
    · exact exec_next _ _
    · exact ⟨_, rfl⟩
  | visit e c => exact ⟨_, step_visit hphase⟩
  | loop e c =>
    rw [step_loop hphase]
    exact exec_next _ _
  | fade e => exact ⟨_, step_fade hphase⟩

/-- Settles O7: by the phase, and when waiting the step is known. -/
theorem everyStepAnswersANextState : Obligations.EveryStepAnswersANextState :=
  ⟨step_next, fun _ hready hcalls => step_waiting hready hcalls⟩

/-! ## A claimed channel -/

theorem State.startAdvance_q (s : State) : s.startAdvance.q = s.q := by
  obtain ⟨r, -, h⟩ | ⟨-, -, h⟩ | ⟨-, -, u, hu, h⟩ := s.startAdvance_cases
  · rw [h]
    rfl
  · rw [h]
    rfl
  · have hq : u.q = s.q := by
      rw [hu]
      split
      · rfl
      · exact s.sfxStep_q
    obtain ⟨-, h⟩ | ⟨-, h⟩ := h
    · rw [h, hq]
    · rw [h]
      exact hq

/-- An overridden channel's visit is its voice update, and no other channel's visit reaches it (R119 item 2). -/
theorem State.visitChannel_seq_of_overridden {s : State} {c : Chan} (e : Byte) (d : Chan)
    (hover : s.g.override.get c = true) : (s.visitChannel e d).seq c = s.seq c := by
  by_cases hd : c = d
  · subst hd
    obtain ⟨x, ws, hupdate, -⟩ := s.updateVoice_kept c
    rw [State.visitChannel, if_pos hover, State.leaveChannel_seq, hupdate]
    rfl
  · exact (s.visitChannel_channelStep e d).onlySeq c hd

/-- A step of an `advance()` leaves the sequencer of an overridden channel (R119 item 2). -/
theorem step_seq_of_overridden {s t : State} {c : Chan} (hinv : s.Inv) (hover : s.g.override.get c = true)
    (hcall : s.phase = .ready → ∃ rest, s.calls = .advance :: rest) (hstep : step s = .next t) : t.seq c = s.seq c := by
  cases hphase : s.phase with
  | ready =>
    obtain ⟨rest, hcalls⟩ := hcall hphase
    cases (step_advance hphase hcalls).symm.trans hstep
    exact congrArg (Quad.get · c) (State.startAdvance_q { s with calls := rest })
  | visit e d =>
    cases (step_visit hphase).symm.trans hstep
    exact State.visitChannel_seq_of_overridden e d hover
  | loop e d =>
    have hne : c ≠ s.cur := by
      rintro rfl
      obtain ⟨-, hnot⟩ := hinv.looping e d hphase
      rw [State.cur_of_loop hphase, hnot] at hover
      cases hover
    exact (exec_effect (s.instrAt_isBytecode _) ((step_loop hphase).symm.trans hstep)).channelStep.onlySeq c hne
  | fade e =>
    cases (step_fade hphase).symm.trans hstep
    rfl

/-- With the reference layer the start of an `advance()` changes of the globals the tempo's fraction alone. -/
theorem State.startAdvance_of_reference {s : State} (href : s.cfg.sfxStep = .reference) :
    s.startAdvance.g = { s.g with frac := s.startAdvance.g.frac } ∧ s.startAdvance.calls = s.calls := by
  cases hfault : s.g.fault with
  | some info =>
    rw [State.startAdvance, State.unlessFaulted_of_some hfault]
    exact ⟨rfl, rfl⟩
  | none =>
    cases hsuspend : s.g.suspend with
    | true =>
      rw [State.startAdvance_of_suspended hfault hsuspend]
      exact ⟨rfl, rfl⟩
    | false =>
      rw [State.startAdvance_of_quiet hfault hsuspend (.inr href)]
      exact ⟨rfl, rfl⟩

/-- With only `advance()` calls to come and the reference SFX layer, a step leaves the override bits, and only `advance()`
calls to come. -/
theorem step_override_of_reference {s t : State} (href : s.cfg.sfxStep = .reference)
    (hcalls : ∀ k ∈ s.calls, k = HostCall.advance) (hstep : step s = .next t) :
    t.g.override = s.g.override ∧ ∀ k ∈ t.calls, k = HostCall.advance := by
  obtain ⟨-, -, rfl⟩ | ⟨rest, -, hcall, rfl⟩ | ⟨track, region, rest, -, hcall, -⟩ | ⟨addr, claim, rest, -, hcall, -⟩ |
    ⟨e, c, hphase, rfl⟩ | ⟨e, c, -, h⟩ | ⟨e, -, rfl⟩ := step_cases hstep
  · exact ⟨rfl, hcalls⟩
  · obtain ⟨hg, hrest⟩ := State.startAdvance_of_reference (s := { s with calls := rest }) href
    rw [hcall] at hcalls
    rw [hg, hrest]
    exact ⟨rfl, fun k hk => hcalls k (List.mem_cons_of_mem _ hk)⟩
  · rw [hcall] at hcalls
    cases hcalls _ List.mem_cons_self
  · rw [hcall] at hcalls
    cases hcalls _ List.mem_cons_self
  · obtain ⟨hg, -⟩ := State.visitChannel_control hphase
    obtain ⟨-, -, hsame⟩ := (s.visitChannel_channelStep e c).inputs
    rw [hg, hsame]
    exact ⟨rfl, hcalls⟩
  · have heffect := (exec_effect (s.instrAt_isBytecode _) h).channelStep
    obtain ⟨-, -, hsame⟩ := heffect.inputs
    rw [heffect.globals, hsame]
    exact ⟨rfl, hcalls⟩
  · refine ⟨?_, hcalls⟩
    show (s.g.fadeUpdate e).override = _
    rw [Global.fadeUpdate_frame]

/-- What holds along a run of `advance()` calls with the reference layer, from a state where channel c is overridden and its
sequencer is q. -/
structure State.Held (c : Chan) (q : Seq) (s : State) : Prop where
  inv : s.Inv
  reference : s.cfg.sfxStep = .reference
  overridden : s.g.override.get c = true
  calls : ∀ k ∈ s.calls, k = HostCall.advance
  seq : s.seq c = q

theorem State.Held.step {c : Chan} {q : Seq} {s t : State} (h : s.Held c q) (hstep : Machine.step s = .next t) :
    t.Held c q := by
  obtain ⟨hinv, href, hover, hcalls, hseq⟩ := h
  obtain ⟨hsame, hcalls'⟩ := step_override_of_reference href hcalls hstep
  have hready : s.phase = .ready → (∃ rest, s.calls = .advance :: rest) ∨ t = s := by
    intro hready
    cases hcall : s.calls with
    | nil =>
      cases (step_waiting hready hcall).symm.trans hstep
      exact .inr rfl
    | cons k rest =>
      rw [hcalls k (by rw [hcall]; exact List.mem_cons_self)]
      exact .inl ⟨rest, rfl⟩
  have hheld : t.seq c = s.seq c := by
    by_cases hwaiting : t = s
    · rw [hwaiting]
    · exact step_seq_of_overridden hinv hover (fun hr => (hready hr).resolve_right hwaiting) hstep
  exact ⟨stepKeepsInvariant s t hinv hstep, (step_keeps hstep).cfg ▸ href, hsame ▸ hover, hcalls', hheld.trans hseq⟩

/-- Settles O15: a step of an `advance()` leaves the sequencer; with the reference layer the channel stays overridden, so
every step of a run does. -/
theorem claimedChannelIsHeld : Obligations.ClaimedChannelIsHeld := by
  refine ⟨fun s t c hinv hover hcall hstep => step_seq_of_overridden hinv hover hcall hstep, ?_⟩
  intro n s t c hinv href hover hcalls hrun
  have hheld : t.Held c (s.seq c) := run_invariant (fun _ _ => State.Held.step) ⟨hinv, href, hover, hcalls, rfl⟩ hrun
  exact ⟨hheld.seq, hheld.overridden⟩

/-! ## The one exception -/

theorem State.sfxStart_fault_of_reference {s : State} (addr : Word) (claim : Quad Bool)
    (href : s.cfg.sfxStart = .reference) : (s.sfxStart addr claim).g.fault = s.g.fault := by
  obtain ⟨r, -, h⟩ | ⟨-, -, h⟩ | ⟨-, -, -, -, h⟩ | ⟨n, -, -, -, hfree, -⟩ := s.sfxStart_cases addr claim
  · rw [h]
    rfl
  · rw [h]
    rfl
  · obtain ⟨v, heq, -⟩ := s.sfxClaim_form addr claim
    rw [h, heq]
    rfl
  · cases href.symm.trans hfree

/-- Only an illegal instruction changes the fault, and it is written as the byte it records (R96). -/
theorem BytecodeEffect.fault {i : Instr} {s t : State} (h : BytecodeEffect i s t) :
    t.g.fault = s.g.fault ∨
      ∃ b a, encode i = .bytecode [b, a] ∧ i.isIllegal = true ∧ t = s.illegalByte b := by
  cases h with
  | sequencer q => exact .inl rfl
  | voice x => exact .inl rfl
  | globals n tempo frac gtrans => exact .inl rfl
  | leave x hx hptr q hq ws => exact .inl (congrArg Global.fault (State.leaveChannel_g _))
  | raise b a hi hillegal => exact .inr ⟨b, a, hi, hillegal, rfl⟩

/-- The byte that an instruction of the ROM is written from is the one at its address. -/
theorem State.instrAt_illegal {s : State} {addr : Word} {b a : Byte} (hencode : encode (s.instrAt addr) = .bytecode [b, a])
    (hillegal : (s.instrAt addr).isIllegal = true) : b = s.memRead addr ∧ 0x19 ≤ b.toNat ∧ b.toNat ≤ 0x1F := by
  obtain ⟨-, -, hrange, -, hbytes⟩ := decode4_spec (s.memRead addr) (s.memRead (addr + 1)) (s.memRead (addr + 2))
    (s.memRead (addr + 3))
  have hlength : ∃ n, instrLength (s.memRead addr) = n + 1 := Nat.exists_eq_add_of_le' (instrLength_pos _).1
  obtain ⟨n, hn⟩ := hlength
  rw [hn] at hbytes
  have hb : b = s.memRead addr := (List.cons.inj (Encoding.bytecode.inj (hencode.symm.trans hbytes))).1
  exact ⟨hb, hb ▸ hrange.mp hillegal⟩

/-- Settles O17: by the step's kind, only an instruction changes the fault, and only an illegal one. -/
theorem onlyIllegalBytesRaise : Obligations.OnlyIllegalBytesRaise := by
  intro s t r hrefStep hrefStart hnone hstep hraised
  have hchanged : t.g.fault ≠ s.g.fault := by
    rw [hnone, hraised]
    exact Option.some_ne_none r
  obtain ⟨-, -, rfl⟩ | ⟨rest, -, -, rfl⟩ | ⟨track, region, rest, -, -, h⟩ | ⟨addr, claim, rest, -, -, rfl⟩ |
    ⟨e, c, hphase, rfl⟩ | ⟨e, c, hphase, h⟩ | ⟨e, -, rfl⟩ := step_cases hstep
  · exact absurd rfl hchanged
  · obtain ⟨hg, -⟩ := State.startAdvance_of_reference (s := { s with calls := rest }) hrefStep
    exact absurd (by rw [hg]) hchanged
  · exact absurd (exec_decodeHost_effect h).fault hchanged
  · exact absurd (State.sfxStart_fault_of_reference (s := { s with calls := rest }) addr claim hrefStart) hchanged
  · exact absurd (congrArg Global.fault (State.visitChannel_control hphase).1) hchanged
  · obtain ⟨b, a, hencode, hillegal, rfl⟩ := (exec_effect (s.instrAt_isBytecode _) h).fault.resolve_left hchanged
    cases hraised
    obtain ⟨hbyte, hlow, hhigh⟩ := State.instrAt_illegal hencode hillegal
    rw [State.illegalByte, State.cur_of_loop hphase]
    exact ⟨e, hphase, rfl, hbyte, hlow, hhigh, rfl, rfl, rfl, rfl⟩
  · refine absurd ?_ hchanged
    show (s.g.fadeUpdate e).fault = _
    rw [Global.fadeUpdate_frame]

end Sys2Proof.Machine
end

section
/-! PROOF of O20 and O23 (R65, R67, R103, R114). The states between the six steps of a voice update, each as one voice of the
state before; what the two writes depend on; and the update's trace. -/

namespace Sys2Proof.Machine

/-! ## The states between the steps -/

section Steps

variable (s : State) (c : Chan)

/-- The voice of channel c after a pending reload (R99). -/
def State.reloadedVoice : Voice := if (s.voice c).reloadPending then (s.voice c).reload (s.ir c 7) else s.voice c

theorem State.reloadIfPending_setVoice : s.reloadIfPending c = s.setVoice c (s.reloadedVoice c) := s.reloadIfPending_eq c

theorem State.reloadedVoice_instrPtr : (s.reloadedVoice c).instrPtr = (s.voice c).instrPtr := by
  unfold State.reloadedVoice
  split <;> rfl

theorem State.lfoStep_reloaded :
    (s.reloadIfPending c).lfoStep c = s.setVoice c ((s.reloadedVoice c).lfoStep (s.ir c 4)) := by
  rw [State.reloadIfPending_setVoice, State.lfoStep, State.setVoice_setVoice, State.setVoice_voice_same,
    State.setVoice_ir_of_ptr _ _ _ _ (s.reloadedVoice_instrPtr c)]

/-- The write event of the volume write, which is made on what the envelope step left (R103). -/
def State.volumeEvent : WriteEvent :=
  ⟨s.cfg.regVol.get c,
    (s.setVoice c (s.steppedVoice c)).volumeValue c ((s.setVoice c (s.steppedVoice c)).outputVolume c)⟩

/-- The state after the portamento step, which the period write starts from (R67). -/
def State.glided : State := { s with v := s.v.set c (s.glidedVoice c), trace := s.trace ++ [s.volumeEvent c] }

theorem State.portamentoStep_written :
    ((((s.reloadIfPending c).lfoStep c).envelopeStep c).volumeWrite c).portamentoStep c = s.glided c := by
  have hnote : (s.steppedVoice c).note = (s.voice c).note := by rw [State.steppedVoice_frame]
  rw [State.updateVoice_steps]
  simp only [State.volumeWrite, State.portamentoStep, State.regWrite_voice, State.setVoice_voice_same, State.regWrite_cfg,
    State.setVoice_cfg, hnote]
  simp only [State.setVoice, State.regWrite, Quad.set_set]
  rfl

theorem State.updateVoice_eq_periodWrite : s.updateVoice c = (s.glided c).periodWrite c := by
  rw [← State.portamentoStep_written]
  rfl

/-- The period-high byte an update writes, unless it is the cached one (R114). -/
def State.highByte : Byte := (((s.glided c).outPeriod c).extractLsb' 8 6).zeroExtend 8

/-- The period-low byte an update writes (R114). -/
def State.lowByte : Byte := ((s.glided c).outPeriod c).extractLsb' 0 8

theorem State.highByte_toNat : (s.highByte c).toNat = ((s.glided c).outPeriod c).toNat / 256 := by
  have := ((s.glided c).outPeriod c).isLt
  simp only [State.highByte, BitVec.zeroExtend_eq_setWidth, BitVec.toNat_setWidth, BitVec.extractLsb'_toNat,
    Nat.shiftRight_eq_div_pow]
  omega

theorem State.lowByte_toNat : (s.lowByte c).toNat = ((s.glided c).outPeriod c).toNat % 256 := by
  simp only [State.lowByte, BitVec.extractLsb'_toNat, Nat.shiftRight_zero]

theorem State.glided_voice : (s.glided c).voice c = s.glidedVoice c := Quad.get_set_same _ _ _

theorem State.glidedVoice_hiCache : (s.glidedVoice c).hiCache = (s.voice c).hiCache := by
  rw [State.glidedVoice_frame, State.steppedVoice_frame]

/-- A voice update: the voice as the portamento step leaves it, with its cache, and the two or three writes (R67). -/
theorem State.updateVoice_writes :
    s.updateVoice c =
      { s with
        v := s.v.set c { s.glidedVoice c with hiCache := s.highByte c }
        trace := s.trace ++ [s.volumeEvent c, ⟨s.cfg.regLo.get c, s.lowByte c⟩] ++
          (if s.highByte c = (s.voice c).hiCache then [] else [⟨s.cfg.regHi.get c, s.highByte c⟩]) } := by
  have htrace : (s.glided c).trace = s.trace ++ [s.volumeEvent c] := rfl
  rw [State.updateVoice_eq_periodWrite, State.periodWrite_eq, State.glided_voice, State.glidedVoice_hiCache, htrace,
    List.append_assoc s.trace]
  simp only [State.glided, Quad.set_set]
  rfl

end Steps

/-! ## What the two writes depend on -/

/-- The volume written does not depend on the pitch engine's fields, nor on the trace (R103). -/
theorem State.volume_of_samePitchless {u w : State} {c : Chan} (hg : w.g = u.g) (hrom : w.rom = u.rom)
    (hcfg : w.cfg = u.cfg) (period : Word) (active : Bool) (cache : Byte)
    (hv : w.voice c = { u.voice c with period := period, portaActive := active, hiCache := cache }) :
    w.volumeValue c (w.outputVolume c) = u.volumeValue c (u.outputVolume c) := by
  have houtput : w.outputVolume c = u.outputVolume c := by
    simp only [State.outputVolume, State.ir, State.memRead, hg, hrom, hcfg, hv]
    rfl
  have hduty : (w.voice c).volDuty = (u.voice c).volDuty := by rw [hv]
  rw [State.volumeValue, hcfg, hduty, houtput, State.volumeValue]

/-- The output period does not depend on the cache, nor on the trace (R112). -/
theorem State.outPeriod_of_sameVoice {u w : State} {c : Chan} (hrom : w.rom = u.rom) (hcfg : w.cfg = u.cfg) (cache : Byte)
    (hv : w.voice c = { u.voice c with hiCache := cache }) : w.outPeriod c = u.outPeriod c := by
  simp only [State.outPeriod, State.ir, State.memRead, hrom, hcfg, hv]
  rfl

/-- The voice after an update, engine by engine: each field is as the step that writes it left it (R67). -/
theorem State.glidedVoice_engines (s : State) (c : Chan) :
    s.glidedVoice c = { s.voice c with
      reloadPending := (s.reloadedVoice c).reloadPending, volDuty := (s.reloadedVoice c).volDuty
      lfoPhase := ((s.reloadedVoice c).lfoStep (s.ir c 4)).lfoPhase
      lfoPolarity := ((s.reloadedVoice c).lfoStep (s.ir c 4)).lfoPolarity
      phase := (s.steppedVoice c).phase, level := (s.steppedVoice c).level
      period := (s.glidedVoice c).period, portaActive := (s.glidedVoice c).portaActive } := by
  have hreloaded : s.reloadedVoice c = { s.voice c with
      reloadPending := (s.reloadedVoice c).reloadPending, volDuty := (s.reloadedVoice c).volDuty
      phase := (s.reloadedVoice c).phase } := by
    unfold State.reloadedVoice
    split <;> rfl
  have hswept := (s.reloadedVoice c).lfoStep_frame (s.ir c 4)
  have hstepped : s.steppedVoice c = { (s.reloadedVoice c).lfoStep (s.ir c 4) with
      level := (s.steppedVoice c).level, phase := (s.steppedVoice c).phase } := Voice.envelopeStep_frame _ _ _ _ _ _
  have hglided := s.glidedVoice_frame c
  generalize (s.reloadedVoice c).lfoStep (s.ir c 4) = swept at hswept hstepped
  generalize s.reloadedVoice c = reloaded at hreloaded hswept
  generalize s.steppedVoice c = stepped at hstepped hglided
  rw [hreloaded] at hswept
  rw [hswept] at hstepped
  rw [hstepped] at hglided
  exact hglided

/-- Settles O23: every state between the steps is known as one voice, and the writes depend on no more than that. -/
theorem voiceUpdateWrites : Obligations.VoiceUpdateWrites := by
  intro s c
  refine ⟨s.lowByte c, s.highByte c, ?_⟩
  intro t reloaded swept stepped written glided
  have hreloaded : reloaded.voice c = s.reloadedVoice c := by
    simp only [reloaded, State.reloadIfPending_setVoice, State.setVoice_voice_same]
  have hswept : swept.voice c = (s.reloadedVoice c).lfoStep (s.ir c 4) := by
    simp only [swept, reloaded, State.lfoStep_reloaded, State.setVoice_voice_same]
  have hstepped : stepped = s.setVoice c (s.steppedVoice c) := s.updateVoice_steps c
  have hsteppedVoice : stepped.voice c = s.steppedVoice c := by rw [hstepped, State.setVoice_voice_same]
  have hglided : glided = s.glided c := s.portamentoStep_written c
  have hglidedVoice : glided.voice c = s.glidedVoice c := by rw [hglided, State.glided_voice]
  have ht : t = _ := s.updateVoice_writes c
  have htvoice : t.voice c = { s.glidedVoice c with hiCache := s.highByte c } := by
    rw [ht, State.voice, Quad.get_set_same]
  have hvolume : t.volumeValue c (t.outputVolume c) = stepped.volumeValue c (stepped.outputVolume c) := by
    refine State.volume_of_samePitchless ?_ ?_ ?_ (s.glidedVoice c).period (s.glidedVoice c).portaActive (s.highByte c) ?_
    · rw [ht, hstepped]; rfl
    · rw [ht, hstepped]; rfl
    · rw [ht, hstepped]; rfl
    · rw [htvoice, hsteppedVoice, State.glidedVoice_frame]
  have hperiod : t.outPeriod c = glided.outPeriod c := by
    refine State.outPeriod_of_sameVoice ?_ ?_ (s.highByte c) ?_
    · rw [ht, hglided]; rfl
    · rw [ht, hglided]; rfl
    · rw [htvoice, hglidedVoice]
  refine ⟨rfl, ?_, ?_, ?_, ?_, ?_, hperiod, ?_⟩
  · rw [htvoice, hreloaded, hswept, hsteppedVoice, hglidedVoice]
    exact congrArg (fun x => { x with hiCache := s.highByte c }) (s.glidedVoice_engines c)
  · show stepped.volumeWrite c = _
    rw [State.volumeWrite, State.regWrite, hstepped]
    rfl
  · rw [hglided, State.lowByte_toNat]
  · rw [hglided, State.highByte_toNat]
  · rw [hvolume, hstepped, ht]
    rfl
  · rw [htvoice, ht]

/-! ## The visit of a channel -/

section Visit

variable {s : State} {e : Byte} {c : Chan} (hphase : s.phase = .visit e c)
include hphase

theorem State.visitChannel_of_overridden (hover : s.g.override.get c = true) :
    s.visitChannel e c = { s.updateVoice c with phase := afterChannel e c } := by
  rw [State.visitChannel, if_pos hover, State.leaveChannel_of_visit ((s.updateVoice_phase c).trans hphase)]

/-- A channel that is not overridden and is muted or halted has nothing to do (R65, R68). -/
theorem State.visitChannel_of_quiet (hover : s.g.override.get c = false) (hquiet : s.g.mute = true ∨ (s.seq c).cursor = 0) :
    s.visitChannel e c = { s with phase := afterChannel e c } := by
  cases hmute : s.g.mute with
  | true => rw [State.visitChannel, hover, hmute, if_neg Bool.false_ne_true, if_pos rfl, State.leaveChannel_of_visit hphase]
  | false =>
    exact State.visitChannel_of_halted hphase hover hmute (hquiet.resolve_left (by rw [hmute]; exact Bool.false_ne_true))

end Visit

/-- Settles O20: an overridden channel's visit is its update, whose form is known; a quiet one's is a change of phase. -/
theorem channelVisitsInOrder : Obligations.ChannelVisitsInOrder := by
  intro s e c hphase next
  have hnext : next = afterChannel e c := by cases c <;> rfl
  rw [hnext]
  refine ⟨s.visitChannel e c, step_visit hphase, fun hover => ?_, State.visitChannel_of_quiet hphase⟩
  have hupdate := s.updateVoice_channelStep c
  have hwrites := s.updateVoice_writes c
  rw [State.visitChannel_of_overridden hphase hover]
  refine ⟨rfl, ?_, s.updateVoice_g c, hupdate.onlyVoice, hupdate.sameInputs,
    (s.volumeEvent c).value, s.lowByte c, s.highByte c, ?_⟩
  · rw [hwrites]
  · rw [hwrites]
    rfl

end Sys2Proof.Machine
end

section
/-! PROOF of O9, O10, O18, O19, O22, O24, O52 and O54 (R36, R63 to R66, R125, R128, R151, R152). Single steps of a frame in the
states where little happens, and the runs that are made of them. -/

namespace Sys2Proof.Machine

/-! ## Commands that come back to themselves -/

/-- A step that changes nothing makes a run that changes nothing. -/
theorem run_of_step_self {s : State} (h : step s = .next s) (n : Nat) : run n s = .next s := by
  induction n with
  | zero => exact run_zero s
  | succ n ih => rw [run_succ h, ih]

theorem State.setCursor_self (s : State) (c : Chan) : s.setCursor c (s.seq c).cursor = s :=
  congrArg (fun q => { s with q := q }) (s.set_seq_self c)

/-- A loop-end of count 1 at counter 0 leaves the counter at 0 and jumps (R92). -/
theorem State.loopEnd_one_self {s : State} {k : Level} {t0 t1 : Byte} (hrule : s.cfg.loopEndRule = .expiryJump)
    (hcounter : (s.seq s.cur).loop.get k = 0) (htarget : assemble s.cfg.wordOrder t0 t1 = (s.seq s.cur).cursor) :
    s.loopEnd k 1 t0 t1 = s := by
  have hcount : loopCount ((s.seq s.cur).loop.get k) 1 = (s.seq s.cur).loop.get k := by
    rw [hcounter]
    decide
  have hjumps : loopJumps .expiryJump ((s.seq s.cur).loop.get k) = true := by
    rw [hcounter]
    decide
  rw [State.loopEnd_eq, hcount, Quad.set_get, hrule, if_pos hjumps, htarget]
  exact congrArg (fun q => { s with q := q }) (s.set_seq_self s.cur)

/-- Settles O18: either command leaves the state as it is. -/
theorem selfJumpNeverReturns : Obligations.SelfJumpNeverReturns := by
  intro n s e c hphase hself
  refine run_of_step_self ?_ n
  have hcur := State.cur_of_loop hphase
  subst hcur
  rw [step_loop hphase]
  obtain ⟨t0, t1, hjump, htarget⟩ | ⟨k, t0, t1, hloop, hrule, hcounter, htarget⟩ := hself
  · rw [hjump, exec_jump, htarget, State.setCursor_self]
  · rw [hloop, loopInstr_exec, State.loopEnd_one_self hrule hcounter htarget]

/-! ## The ends of a frame -/

/-- Settles O19: with no event, or the reference layer, the frame begins at once. -/
theorem advanceYieldsElapsedTicks : Obligations.AdvanceYieldsElapsedTicks := by
  intro s rest hready hcalls hfault hsuspend hquiet
  have hstart : { s with calls := rest }.startAdvance = { s with calls := rest }.beginFrame :=
    State.startAdvance_of_quiet hfault hsuspend hquiet
  rw [step_advance hready hcalls, hstart]
  exact ⟨_, s.g.elapsedTicks, rfl, rfl, s.g.elapsedTicks_toNat, rfl, s.g.accumulate_frac_toNat, rfl, rfl, rfl, rfl, rfl, rfl⟩

/-- Without an active fade the update does nothing (R66). -/
theorem Global.fadeUpdate_of_inactive {g : Global} (e : Byte) (h : g.fadeActive = false) : g.fadeUpdate e = g := by
  rw [Global.fadeUpdate, h, if_neg Bool.false_ne_true]

/-- An active countdown falls by E, saturating at zero, where the fade is complete (R66). -/
theorem Global.fadeUpdate_of_active {g : Global} (e : Byte) (h : g.fadeActive = true) :
    (g.fadeUpdate e).fadeCounter.toNat = g.fadeCounter.toNat - e.toNat ∧
      ((g.fadeUpdate e).fadeComplete = true ↔ g.fadeComplete = true ∨ g.fadeCounter.toNat ≤ e.toNat) := by
  rw [Global.fadeUpdate, if_pos h]
  by_cases hdone : g.fadeCounter.toNat ≤ e.toNat
  · rw [if_pos hdone]
    exact ⟨(Nat.sub_eq_zero_of_le hdone).symm, iff_of_true rfl (.inr hdone)⟩
  · rw [if_neg hdone]
    have hwide : (e.zeroExtend 16).toNat = e.toNat := by
      rw [BitVec.zeroExtend_eq_setWidth, BitVec.toNat_setWidth]
      omega
    have hle : e.zeroExtend 16 ≤ g.fadeCounter := by
      rw [BitVec.le_def, hwide]
      omega
    exact ⟨by rw [BitVec.toNat_sub_of_le hle, hwide], ⟨.inl, fun h => h.resolve_right hdone⟩⟩

/-- Settles O22: the fade update by whether a fade is active. -/
theorem fadeCountdownSaturates : Obligations.FadeCountdownSaturates := by
  intro s e hphase
  refine ⟨s.finishFrame e, step_fade hphase, s.setG_finishCall_frameHost _ .ok, rfl, Global.fadeUpdate_of_inactive e,
    fun hactive => ?_⟩
  obtain ⟨hcounter, hcomplete⟩ := Global.fadeUpdate_of_active e hactive
  exact ⟨hcounter, hcomplete, s.g.fadeUpdate_frame e⟩

/-! ## A frame in an idle state -/

/-- Four visits of channels that have nothing to do (R65). -/
theorem run_quiet_visits {s : State} {e : Byte} (hphase : s.phase = .visit e .i3) (hover : ∀ c, s.g.override.get c = false)
    (hquiet : s.g.mute = true ∨ ∀ c, (s.seq c).cursor = 0) : run 4 s = .next { s with phase := .fade e } := by
  have hvisit : ∀ c, step { s with phase := .visit e c } = .next { s with phase := afterChannel e c } := by
    intro c
    rw [step_visit (s := { s with phase := .visit e c }) rfl]
    exact congrArg _ (State.visitChannel_of_quiet (s := { s with phase := .visit e c }) rfl (hover c)
      (hquiet.imp_right (· c)))
  calc run 4 s = run 4 { s with phase := .visit e .i3 } := by rw [← hphase]
    _ = run 3 { s with phase := .visit e .i2 } := run_succ (hvisit .i3)
    _ = run 2 { s with phase := .visit e .i1 } := run_succ (hvisit .i2)
    _ = run 1 { s with phase := .visit e .i0 } := run_succ (hvisit .i1)
    _ = run 0 { s with phase := .fade e } := run_succ (hvisit .i0)

/-- A whole frame with no event and nothing to do on any channel: the accumulator and the fade, and Ok (R63). -/
theorem run_idle_frame {s : State} {rest : List HostCall} (hidle : s.Idle) (hready : s.phase = .ready)
    (hcalls : s.calls = .advance :: rest) (hfault : s.g.fault = none) (hsuspend : s.g.suspend = false) :
    run 6 s = .next { s with
      calls := rest, result := some .ok, g := s.g.accumulate.fadeUpdate s.g.elapsedTicks } := by
  obtain ⟨hevent, hover, hquiet⟩ := hidle
  have hstart : step s = .next { s with calls := rest }.beginFrame :=
    (step_advance hready hcalls).trans
      (congrArg _ (State.startAdvance_of_quiet (s := { s with calls := rest }) hfault hsuspend (.inl hevent)))
  have hvisits := run_quiet_visits (s := { s with calls := rest }.beginFrame) rfl hover hquiet.symm
  rw [run_succ hstart, run_add (n := 4) (m := 1) hvisits, run_succ (step_fade rfl), run_zero, State.finishFrame,
    State.finishCall, hready]
  rfl

/-- The accumulator and the fade update write three fields of the globals between them (R64, R66). -/
theorem Global.idleFrame_frame (g : Global) (e : Byte) :
    g.accumulate.fadeUpdate e = { g with
      frac := (g.accumulate.fadeUpdate e).frac
      fadeCounter := (g.accumulate.fadeUpdate e).fadeCounter
      fadeComplete := (g.accumulate.fadeUpdate e).fadeComplete } := by
  have hframe := g.accumulate.fadeUpdate_frame e
  have hfrac : (g.accumulate.fadeUpdate e).frac = g.accumulate.frac := by rw [hframe]
  rw [hfrac]
  exact hframe

/-- Settles O24: an idle frame's state is known, and of the globals three fields are written. -/
theorem idleFrameIsSilent : Obligations.IdleFrameIsSilent := by
  intro s rest hidle hready hcalls hfault
  refine ⟨fun hsuspend => ⟨_, run_idle_frame hidle hready hcalls hfault hsuspend, ?_⟩, fun hsuspend => ?_⟩
  · exact congrArg (fun g => { s with calls := rest, result := some .ok, g := g }) (s.g.idleFrame_frame _)
  · obtain ⟨-, -, hsuspended⟩ := pauseAndResume 0 s hfault
    rw [run_succ (hsuspended rest hready hcalls hsuspend), run_zero]

/-- The one `advance()` to come in an idle state, suspended or not, is over after six steps, having written nothing. -/
theorem run_idle_advance {s : State} (hidle : s.Idle) (hready : s.phase = .ready) (hcalls : s.calls = [.advance])
    (hfault : s.g.fault = none) :
    ∃ t, run 6 s = .next t ∧ t.trace = s.trace ∧ t.phase = .ready ∧ t.result = some .ok ∧ t.calls = [] ∧ t.v = s.v ∧
      t.q = s.q := by
  cases hsuspend : s.g.suspend with
  | false => exact ⟨_, run_idle_frame hidle hready hcalls hfault hsuspend, rfl, hready, rfl, rfl, rfl, rfl⟩
  | true =>
    obtain ⟨-, -, hsuspended⟩ := pauseAndResume 0 s hfault
    have hwaiting : step { s with calls := [], result := some .ok } = .next { s with calls := [], result := some .ok } :=
      step_waiting hready rfl
    refine ⟨{ s with calls := [], result := some .ok }, ?_, rfl, hready, rfl, rfl, rfl, rfl⟩
    rw [run_succ (hsuspended [] hready hcalls hsuspend), run_of_step_self hwaiting]

/-- Settles O54: silence-now leaves an idle block, in which the `advance()` after it writes nothing. -/
theorem silenceNowThenAdvance : Obligations.SilenceNowThenAdvance := by
  intro region s hfault
  rw [← State.silenceWrites_eq]
  refine ⟨⟨_, exec_metaF2 region hfault, ⟨⟨fun _ => rfl, rfl, rfl⟩, rfl, rfl, rfl, rfl⟩, rfl, rfl⟩, fun hready hcalls => ?_⟩
  have hstep := (step_init hready hcalls).trans (exec_metaF2 (s := { s with calls := [.advance] }) region hfault)
  obtain ⟨t, hrun, htrace, hphase, -, hdone, hv, hq⟩ :=
    run_idle_advance (s := State.finishCall
      { s with
        calls := [.advance], g := { s.g with mute := true, sfxCursor := 0, override := Quad.fill false }
        trace := s.trace ++ s.silenceWrites } .ok) ⟨rfl, fun c => Quad.get_fill c false, .inr rfl⟩ rfl rfl hfault
  exact ⟨t, (run_succ hstep).trans hrun, htrace, hphase, hdone, hv, hq⟩

/-! ## A song init -/

/-- The cursor that a song init loads for channel c (R125). -/
theorem State.initSong_seq (s : State) (track : Byte) (c : Chan) :
    (s.initSong track).seq c = { Seq.reset with
      cursor :=
        if s.songPointer track = 0 then 0 else s.read16 (s.songPointer track + BitVec.ofNat 16 (2 + 2 * c.toNat)) } := by
  unfold State.initSong State.initChannel State.resetGlobal
  by_cases hempty : s.songPointer track = 0
  · simp only [hempty, if_true]
    cases c <;> rfl
  · simp only [hempty, if_false]
    cases c <;> rfl

/-- Settles O52: the form of a song init, and its cursors. -/
theorem songInitResetsAndLoads : Obligations.SongInitResetsAndLoads := by
  intro track region s _ hfault ptr
  have hexec : exec (.songInit track region) s = .next ((s.initSong track).finishCall .ok) := State.initCall_of_none hfault
  have hseq := s.initSong_seq track
  obtain ⟨v, q, heq, hv, -⟩ := s.initSong_form track
  rw [heq, hfault] at hexec
  rw [heq] at hseq
  exact ⟨_, hexec, ⟨fun _ => rfl, rfl, rfl⟩, rfl, rfl, rfl, rfl, hv, hseq⟩

/-! ## The power-on state -/

theorem State.reset_voice (c : Chan) : State.reset.voice c = Voice.reset c 0 0xFF := by
  cases c <;> rfl

theorem State.reset_seq (c : Chan) : State.reset.seq c = Seq.reset := by
  cases c <;> rfl

/-- Settles O9: each clause at the reset values. -/
theorem resetMeetsInvariant : Obligations.ResetMeetsInvariant where
  rom := State.reset_rom_wf
  ids c := by rw [State.reset_voice]; rfl
  instr c := by rw [State.reset_voice]; rfl
  level c := by rw [State.reset_voice]; exact Nat.zero_le _
  porta c h := by rw [State.reset_voice] at h; cases h
  reserved c := by rw [State.reset_seq]; decide
  claimed c h := absurd ((Quad.get_fill c false).symm.trans h) Bool.false_ne_true
  fade h := nomatch h
  faultCode r h := nomatch h
  running h := absurd rfl h
  looping e c h := nomatch h

/-- Settles O10: the reset values, and the frame of an idle state. -/
theorem resetHoldsTheSpecsValues : Obligations.ResetHoldsTheSpecsValues := by
  have hidle : State.Idle { State.reset with calls := [.advance] } :=
    ⟨rfl, fun c => Quad.get_fill c false, .inl fun c => congrArg Seq.cursor (State.reset_seq c)⟩
  obtain ⟨t, hrun, htrace, hphase, hresult, -⟩ := run_idle_advance hidle rfl rfl rfl
  exact ⟨rfl, State.reset_voice, State.reset_seq, rfl, t, hrun, hphase, hresult, htrace⟩

end Sys2Proof.Machine
end

section
/-! PROOF of O26 to O31 and O60 (R98 to R108, R113). The envelope's direction from its steps in numbers; the parameter functions'
bounds; the volume written, stage by stage; the LFO step. -/

namespace Sys2Proof.Machine

/-! ## The envelope -/

/-- In Attack the level does not fall (R102). -/
theorem Voice.attackStep_level_le {x : Voice} (d : Byte) (h : x.phase = .attack) (hlevel : x.level.toNat ≤ 0xF0) :
    x.level.toNat ≤ (x.attackStep d).level.toNat := by
  have hstep := Voice.attackStep_toNat d h
  split_ifs at hstep
  · rwa [hstep.1]
  · rw [hstep.1]
    exact Nat.le_add_right _ _

/-- In Decay the level does not rise (R102). -/
theorem Voice.decayStep_level_le {x : Voice} (d sus : Byte) (h : x.phase = .decay) :
    (x.decayStep d sus).level.toNat ≤ x.level.toNat := by
  have hstep := Voice.decayStep_toNat d sus h
  split_ifs at hstep
  · rw [hstep]
  · rw [hstep.1]
    exact Nat.min_le_left _ _
  · rw [hstep.1]
    exact Nat.sub_le _ _

/-- In Release the level does not rise (R102). -/
theorem Voice.releaseStep_level_le {x : Voice} (kind : ChKind) (d : Byte) (h : x.phase = .release) :
    (x.releaseStep kind d).level.toNat ≤ x.level.toNat := by
  have hstep := Voice.releaseStep_toNat kind d h
  split_ifs at hstep
  · rw [hstep.1]
    exact Nat.zero_le _
  · rw [hstep]
  · rw [hstep.1]
    exact Nat.zero_le _
  · rw [hstep.1]
    exact Nat.sub_le _ _

/-- Settles O26: the bound is the envelope step's, the direction that of its phase's step. -/
theorem levelMovesOneWay : Obligations.LevelMovesOneWay := by
  intro s c hlevel
  rw [State.envelopeStep_voice]
  refine ⟨Voice.envelopeStep_level _ _ _ _ _ _ hlevel, fun h => ?attack, fun h => ?down, fun h => ?kept⟩
  case attack =>
    rw [Voice.envelopeStep_attack _ _ _ _ _ h]
    exact Voice.attackStep_level_le _ h hlevel
  case down =>
    obtain h | h := h
    · rw [Voice.envelopeStep_decay _ _ _ _ _ h]
      exact Voice.decayStep_level_le _ _ h
    · rw [Voice.envelopeStep_release _ _ _ _ _ h]
      exact Voice.releaseStep_level_le _ _ h
  case kept =>
    obtain h | h := h
    · rw [Voice.envelopeStep_sustain _ _ _ _ _ h]
    · rw [Voice.envelopeStep_idle _ _ _ _ _ h]

/-- Settles O27: the table computed at every byte. -/
theorem rateUsesTheLowFiveBits : Obligations.RateUsesTheLowFiveBits := by
  unfold Obligations.RateUsesTheLowFiveBits
  decide

/-- Settles O28: reload and trigger each rewrite one voice, known by its fields. -/
theorem reloadAndReleaseTrigger : Obligations.ReloadAndReleaseTrigger := by
  intro s c
  have hvoice : (s.reloadIfPending c).voice c = s.reloadedVoice c := by
    rw [State.reloadIfPending_setVoice, State.setVoice_voice_same]
  refine ⟨?_, ?_, ?_⟩
  · rw [hvoice, State.reloadedVoice]
    dsimp only
    split
    · exact ⟨rfl, fun j hj => mergeDuty_bit _ _ j hj⟩
    · rfl
  · rw [hvoice]
    exact s.reloadIfPending_setVoice c
  · rw [State.releaseTrigger, Voice.release_eq]
    rfl

/-! ## The parameter functions -/

theorem volCombine_zero (f : FnChoice) (t : Nibble) : volCombine f 0 t = 0 := by
  cases f with
  | reference => simp [volCombine, refVolCombine]
  | free n => simp [volCombine]

theorem volCombine_reference_toNat (e t : Nibble) : (volCombine .reference e t).toNat = e.toNat * (t.toNat + 1) / 16 := by
  have hproduct : e.toNat * (t.toNat + 1) ≤ 15 * 16 := Nat.mul_le_mul (by omega) (by omega)
  simp only [volCombine, refVolCombine, BitVec.toNat_ofNat]
  omega

theorem tremolo_reference_toNat (v : Nibble) (ph d : Byte) (pol : Bool) :
    (tremolo .reference v ph pol d).toNat = v.toNat - (if pol then 255 - ph.toNat else ph.toNat) * d.toNat / 4096 := by
  have hsmall := v.isLt
  simp only [tremolo, refTremolo, BitVec.toNat_ofNat]
  generalize (if pol then 255 - ph.toNat else ph.toNat) * d.toNat / 4096 = att
  split <;> omega

/-- Tremolo only dims (R105). -/
theorem tremolo_le (f : FnChoice) (v : Nibble) (ph d : Byte) (pol : Bool) : (tremolo f v ph pol d).toNat ≤ v.toNat := by
  cases f with
  | reference =>
    rw [tremolo_reference_toNat]
    exact Nat.sub_le _ _
  | free n =>
    have hsmall := v.isLt
    simp only [tremolo, BitVec.toNat_ofNat]
    omega

theorem hi8_toNat (w : Word) : (hi8 w).toNat = w.toNat / 256 := by
  have hsmall := w.isLt
  simp only [hi8, BitVec.extractLsb'_toNat, Nat.shiftRight_eq_div_pow]
  omega

theorem fadeVolume_toNat (v : Nibble) (w : Word) : (fadeVolume v w).toNat = v.toNat * (w.toNat / 256) / 256 := by
  have hproduct : v.toNat * (w.toNat / 256) ≤ 15 * 255 := Nat.mul_le_mul (by omega) (by omega)
  simp only [fadeVolume, hi8_toNat, BitVec.toNat_ofNat]
  omega

/-- The fade only dims (R106). -/
theorem fadeVolume_le (v : Nibble) (w : Word) : (fadeVolume v w).toNat ≤ v.toNat := by
  have hhigh : w.toNat / 256 ≤ 256 := by omega
  rw [fadeVolume_toNat]
  exact Nat.div_le_of_le_mul (by rw [Nat.mul_comm 256]; exact Nat.mul_le_mul_left _ hhigh)

theorem triValue_zero (f : FnChoice) : triValue f 0 = 0 := by
  cases f <;> rfl

theorem vibMag_zero (f : FnChoice) (ph : Byte) : vibMag f ph 0 = 0 := by
  cases f with
  | reference => simp [vibMag, refVibMag]
  | free n => simp [vibMag]

/-- Settles O29: each function's bound. -/
theorem parameterFunctionsKeepTheirBounds : Obligations.ParameterFunctionsKeepTheirBounds :=
  fun f v ph d pol w => ⟨volCombine_zero f v, tremolo_le f v ph d pol, fadeVolume_le v w, triValue_zero f, vibMag_zero f ph⟩

/-! ## The volume written -/

section Volume

variable (s : State) (c : Chan)

/-- The level and the track volume combined (R104). -/
def State.combinedVolume : Nibble :=
  volCombine s.cfg.volCombine (BitVec.ofNat 4 ((s.voice c).level.toNat / 16))
    (BitVec.ofNat 4 ((s.voice c).volDuty.toNat % 16))

/-- The combined volume after the tremolo, which the record's depth switches (R105). -/
def State.dimmedVolume : Nibble :=
  if 5 ≤ (s.ir c 6).toNat then
    tremolo s.cfg.tremolo (s.combinedVolume c) (s.voice c).lfoPhase (s.voice c).lfoPolarity (s.ir c 6)
  else s.combinedVolume c

theorem State.outputVolume_toNat :
    (s.outputVolume c).toNat =
      if s.g.fadeActive = true ∧ s.cfg.fadeChannels.get c = true then
        (s.dimmedVolume c).toNat * (s.g.fadeCounter.toNat / 256) / 256
      else (s.dimmedVolume c).toNat := by
  have hlevel : (s.voice c).level.extractLsb' 4 4 = BitVec.ofNat 4 ((s.voice c).level.toNat / 16) :=
    BitVec.eq_of_toNat_eq (by simp [Nat.shiftRight_eq_div_pow])
  have htrack : trackVolume (s.voice c).volDuty = BitVec.ofNat 4 ((s.voice c).volDuty.toNat % 16) :=
    BitVec.eq_of_toNat_eq (by simp [trackVolume])
  have hdepth : 5#8 ≤ s.ir c 6 ↔ 5 ≤ (s.ir c 6).toNat := BitVec.le_def
  have hfade : (s.g.fadeActive && s.cfg.fadeChannels.get c) = true ↔
      s.g.fadeActive = true ∧ s.cfg.fadeChannels.get c = true := Bool.and_eq_true_iff
  have houtput : s.outputVolume c =
      if s.g.fadeActive = true ∧ s.cfg.fadeChannels.get c = true then fadeVolume (s.dimmedVolume c) s.g.fadeCounter
      else s.dimmedVolume c := by
    simp only [State.outputVolume, State.dimmedVolume, State.combinedVolume, hlevel, htrack, hdepth, hfade]
  rw [houtput, ← fadeVolume_toNat]
  split <;> rfl

/-- The byte of a volume, as its channel's kind has it (R103, R107). -/
theorem State.volumeValue_eq (v : Nibble) :
    s.volumeValue c v =
      if s.cfg.chKind.get c = .triangle then triValue s.cfg.triValue v else volumeByte (s.voice c).volDuty v := by
  unfold State.volumeValue
  cases s.cfg.chKind.get c <;> rfl

theorem State.dimmedVolume_le : (s.dimmedVolume c).toNat ≤ (s.combinedVolume c).toNat := by
  unfold State.dimmedVolume
  split
  · exact tremolo_le _ _ _ _ _
  · exact Nat.le_refl _

/-- Neither a level below 16 nor a faded-out channel leaves any volume (R103, R106). -/
theorem State.outputVolume_of_silent
    (h : (s.voice c).level.toNat < 16 ∨
      (s.g.fadeActive = true ∧ s.cfg.fadeChannels.get c = true ∧ s.g.fadeCounter.toNat < 256)) :
    s.outputVolume c = 0 := by
  have hzero : (s.outputVolume c).toNat = 0 := by
    rw [State.outputVolume_toNat]
    obtain hlevel | ⟨hactive, hchannel, hcounter⟩ := h
    · have hcombined : s.combinedVolume c = 0 := by
        rw [State.combinedVolume, Nat.div_eq_of_lt hlevel]
        exact volCombine_zero _ _
      have hdimmed := s.dimmedVolume_le c
      rw [hcombined] at hdimmed
      rw [Nat.le_zero.mp hdimmed, Nat.zero_mul, Nat.zero_div, ite_self]
    · rw [if_pos ⟨hactive, hchannel⟩, Nat.div_eq_of_lt hcounter, Nat.mul_zero, Nat.zero_div]
  exact BitVec.eq_of_toNat_eq hzero

end Volume

/-- Settles O60: the volume in its stages, and the byte of the kind. -/
theorem volumeWriteEmitsItsByte : Obligations.VolumeWriteEmitsItsByte := by
  refine ⟨fun s c => ?_, volCombine_reference_toNat, tremolo_reference_toNat, fun v => ?_⟩
  · intro x combined dimmed v
    have hv : v = (s.outputVolume c).toNat := (s.outputVolume_toNat c).symm
    have hbyte : volumeByte x.volDuty (s.outputVolume c) = BitVec.ofNat 8 (x.volDuty.toNat / 16 * 16 + v) := by
      rw [hv, ← volumeByte_toNat, BitVec.ofNat_toNat, BitVec.setWidth_eq]
    rw [State.volumeWrite, State.volumeValue_eq, hbyte, hv, BitVec.ofNat_toNat, BitVec.setWidth_eq]
    rfl
  · have hzero : v = 0 ↔ v.toNat = 0 := BitVec.toNat_eq
    simp only [triValue, refTriValue, hzero]

/-- Settles O30: the volume is 0, and so its byte. -/
theorem silentVoiceWritesVolumeZero : Obligations.SilentVoiceWritesVolumeZero := by
  intro s c hsilent
  refine ⟨s.volumeValue c 0, ?_, ?_⟩
  · rw [State.volumeWrite, State.outputVolume_of_silent s c hsilent]
    rfl
  · rw [State.volumeValue_eq]
    split
    · rw [triValue_zero]
      rfl
    · rw [volumeByte_toNat]
      rfl

/-! ## The LFO -/

/-- The phase takes the rate modulo 256, and the polarity turns exactly when it wraps; a rate of 0 is no exception
(R108). -/
theorem Voice.lfoStep_sum (x : Voice) (r : Byte) :
    x.lfoPhase.toNat + r.toNat =
      (x.lfoStep r).lfoPhase.toNat + if (x.lfoStep r).lfoPolarity = x.lfoPolarity then 0 else 256 := by
  unfold Voice.lfoStep
  by_cases hzero : r = 0
  · rw [if_pos hzero, hzero, if_pos rfl]
    rfl
  · simp only [if_neg hzero, BitVec.toNat_add]
    by_cases hwrap : x.lfoPhase.toNat + r.toNat ≥ 0x100
    · simp only [if_pos hwrap, Bool.not_eq_self, if_false]
      omega
    · simp only [if_neg hwrap, if_true]
      omega

theorem State.lfoStep_voice (s : State) (c : Chan) : (s.lfoStep c).voice c = (s.voice c).lfoStep (s.ir c 4) :=
  State.setVoice_voice_same s c _

/-- Settles O31: the step rewrites one voice, in two fields. -/
theorem lfoAccumulatesItsRate : Obligations.LfoAccumulatesItsRate := by
  intro s c
  rw [State.lfoStep_voice]
  exact ⟨rfl, Voice.lfoStep_frame _ _, Voice.lfoStep_sum _ _⟩

end Sys2Proof.Machine
end

section
/-! PROOF of O32 to O34 (R109 to R113). A step of a glide or a slide in numbers; by induction over the steps, where a glide that
does not wrap comes to and where a slide has come to; and the output period. -/

namespace Sys2Proof.Machine

/-! ## One step of a glide -/

section Glide

variable {x : Voice} {target : Word}

theorem Voice.glideStep_of_inactive (h : x.portaActive = false) : x.glideStep target = x := by
  simp [Voice.glideStep, h]

/-- At the target's low 14 bits the glide takes the whole table entry and ends (R109). -/
theorem Voice.glideStep_of_arrived (h : x.portaActive = true) (heq : x.period.toNat % 0x4000 = target.toNat % 0x4000) :
    x.glideStep target = x.snap target := by
  have hlow : low14 x.period = low14 target := BitVec.eq_of_toNat_eq (by rw [low14_toNat, low14_toNat, heq])
  simp [Voice.glideStep, h, hlow]

/-- Above the target the glide goes down, and ends when it is at or past it (R109). -/
theorem Voice.glideStep_of_above (h : x.portaActive = true) (hlt : target.toNat % 0x4000 < x.period.toNat % 0x4000) :
    x.glideStep target =
      if (x.period - portaStep x.portaRate).toNat % 0x4000 ≤ target.toNat % 0x4000 then x.snap target
      else { x with period := x.period - portaStep x.portaRate } := by
  have hne : low14 x.period ≠ low14 target := fun heq => by
    rw [← low14_toNat, ← low14_toNat, heq] at hlt
    exact lt_irrefl _ hlt
  have hbelow : low14 target < low14 x.period := by rwa [BitVec.lt_def, low14_toNat, low14_toNat]
  simp only [Voice.glideStep, h, Bool.not_true, Bool.false_eq_true, if_false, if_neg hne, if_pos hbelow, BitVec.le_def,
    low14_toNat]

/-- Below the target the glide goes up, and ends when it is at or past it (R109). -/
theorem Voice.glideStep_of_below (h : x.portaActive = true) (hlt : x.period.toNat % 0x4000 < target.toNat % 0x4000) :
    x.glideStep target =
      if target.toNat % 0x4000 ≤ (x.period + portaStep x.portaRate).toNat % 0x4000 then x.snap target
      else { x with period := x.period + portaStep x.portaRate } := by
  have hne : low14 x.period ≠ low14 target := fun heq => by
    rw [← low14_toNat, ← low14_toNat, heq] at hlt
    exact lt_irrefl _ hlt
  have hnotBelow : ¬ low14 target < low14 x.period := by
    rw [BitVec.lt_def, low14_toNat, low14_toNat]
    exact Nat.lt_asymm hlt
  simp only [Voice.glideStep, h, Bool.not_true, Bool.false_eq_true, if_false, if_neg hne, if_neg hnotBelow, BitVec.le_def,
    low14_toNat]

end Glide

/-- The step as the statement's number (R26). -/
theorem portaStep_eq_mod (a : Byte) : (portaStep a).toNat = 2 * (a.toNat % 128) := by
  rw [portaStep_toNat, portaMagnitude, BitVec.extractLsb'_toNat, Nat.shiftRight_zero]

theorem period_sub_toNat (p : Word) (a : Byte) :
    (p - portaStep a).toNat = (p.toNat + 65536 - 2 * (a.toNat % 128)) % 65536 := by
  rw [BitVec.toNat_sub, portaStep_eq_mod]
  omega

theorem period_add_toNat (p : Word) (a : Byte) : (p + portaStep a).toNat = (p.toNat + 2 * (a.toNat % 128)) % 65536 := by
  rw [BitVec.toNat_add, portaStep_eq_mod]

/-! ## A glide that does not wrap -/

/-- From x, n steps reach the target, and until then do not leave the low 14 bits (R111). -/
def Voice.GlidesWithin (x : Voice) (target : Word) (n : Nat) : Prop :=
  (target.toNat % 0x4000 < x.period.toNat % 0x4000 →
    x.period.toNat % 0x4000 - target.toNat % 0x4000 ≤ n * (portaStep x.portaRate).toNat ∧
      n * (portaStep x.portaRate).toNat ≤ x.period.toNat % 0x4000) ∧
  (x.period.toNat % 0x4000 < target.toNat % 0x4000 →
    target.toNat % 0x4000 - x.period.toNat % 0x4000 ≤ n * (portaStep x.portaRate).toNat ∧
      x.period.toNat % 0x4000 + n * (portaStep x.portaRate).toNat < 0x4000)

/-- A step either ends the glide or is one of those steps. -/
theorem Voice.GlidesWithin.step {x : Voice} {target : Word} {n : Nat} (hactive : x.portaActive = true)
    (h : x.GlidesWithin target (n + 1)) :
    x.glideStep target = x.snap target ∨
      ∃ p, x.glideStep target = { x with period := p } ∧ Voice.GlidesWithin { x with period := p } target n := by
  obtain ⟨habove, hbelow⟩ := h
  have hstep := portaStep_eq_mod x.portaRate
  simp only [Nat.succ_mul] at habove hbelow
  obtain hlt | heq | hgt := Nat.lt_trichotomy (x.period.toNat % 0x4000) (target.toNat % 0x4000)
  · obtain ⟨hreach, hfit⟩ := hbelow hlt
    rw [Voice.glideStep_of_below hactive hlt]
    split
    · exact .inl rfl
    next hshort =>
      refine .inr ⟨_, rfl, ?_⟩
      unfold Voice.GlidesWithin
      dsimp only
      rw [period_add_toNat, ← hstep] at hshort ⊢
      generalize n * (portaStep x.portaRate).toNat = nd at hreach hfit ⊢
      constructor <;> intro _ <;> omega
  · exact .inl (Voice.glideStep_of_arrived hactive heq)
  · obtain ⟨hreach, hfit⟩ := habove hgt
    rw [Voice.glideStep_of_above hactive hgt]
    split
    · exact .inl rfl
    next hshort =>
      refine .inr ⟨_, rfl, ?_⟩
      unfold Voice.GlidesWithin
      dsimp only
      rw [period_sub_toNat, ← hstep] at hshort ⊢
      generalize n * (portaStep x.portaRate).toNat = nd at hreach hfit ⊢
      constructor <;> intro _ <;> omega

/-- A glide that has ended stays as it is. -/
theorem Voice.glide_iterate_of_snapped (x : Voice) (target : Word) (m : Nat) :
    (·.glideStep target)^[m] (x.snap target) = x.snap target :=
  Function.iterate_fixed (Voice.glideStep_of_inactive rfl) m

/-- A glide that n steps reach has ended after n + 1 (R111). -/
theorem Voice.glide_iterate {target : Word} {n : Nat} {x : Voice} (hactive : x.portaActive = true)
    (h : x.GlidesWithin target n) {m : Nat} (hm : n + 1 ≤ m) : (·.glideStep target)^[m] x = x.snap target := by
  induction n generalizing x m with
  | zero =>
    obtain ⟨m, rfl⟩ := Nat.exists_eq_add_of_le' hm
    have heq : x.period.toNat % 0x4000 = target.toNat % 0x4000 := by
      obtain ⟨habove, hbelow⟩ := h
      simp only [Nat.zero_mul] at habove hbelow
      omega
    rw [Function.iterate_succ_apply, Voice.glideStep_of_arrived hactive heq, Voice.glide_iterate_of_snapped]
  | succ n ih =>
    obtain ⟨m, rfl⟩ := Nat.exists_eq_add_of_le' (Nat.le_of_add_left_le hm : 1 ≤ m)
    rw [Function.iterate_succ_apply]
    obtain hsnap | ⟨p, hp, hwithin⟩ := h.step hactive
    · rw [hsnap, Voice.glide_iterate_of_snapped]
    · rw [hp]
      exact ih (x := { x with period := p }) hactive hwithin (Nat.le_of_succ_le_succ hm)

/-- The number of steps that R111 gives reaches the target, when they do not wrap. -/
theorem Voice.glidesWithin_ceil {x : Voice} {target : Word} {n : Nat}
    (hn : n = (max (x.period.toNat % 0x4000) (target.toNat % 0x4000) -
      min (x.period.toNat % 0x4000) (target.toNat % 0x4000) + (portaStep x.portaRate).toNat - 1) /
        (portaStep x.portaRate).toNat)
    (hstep : (portaStep x.portaRate).toNat ≠ 0)
    (hdown : target.toNat % 0x4000 < x.period.toNat % 0x4000 →
      n * (portaStep x.portaRate).toNat ≤ x.period.toNat % 0x4000)
    (hup : x.period.toNat % 0x4000 < target.toNat % 0x4000 →
      x.period.toNat % 0x4000 + n * (portaStep x.portaRate).toNat < 0x4000) :
    x.GlidesWithin target n := by
  unfold Voice.GlidesWithin
  generalize (portaStep x.portaRate).toNat = d at hn hstep hdown hup ⊢
  generalize x.period.toNat % 0x4000 = p at hn hdown hup ⊢
  generalize target.toNat % 0x4000 = t at hn hdown hup ⊢
  have hceil : max p t - min p t ≤ n * d := by
    have hdivision := Nat.div_add_mod (max p t - min p t + d - 1) d
    have hremainder := Nat.mod_lt (max p t - min p t + d - 1) (Nat.pos_of_ne_zero hstep)
    rw [← hn, Nat.mul_comm] at hdivision
    omega
  exact ⟨fun hlt => ⟨by omega, hdown hlt⟩, fun hlt => ⟨by omega, hup hlt⟩⟩

/-! ## The portamento step of a channel -/

theorem State.portamentoStep_glide (s : State) {c : Chan} (hc : c ≠ .i0) :
    s.portamentoStep c = s.setVoice c ((s.voice c).glideStep (periodEntry s.cfg (s.voice c).note)) := by
  rw [State.portamentoStep, if_neg hc]

/-- The glide's target stays the same, so the steps are those of one voice. -/
theorem State.portamento_iterate (s : State) {c : Chan} (hc : c ≠ .i0) (m : Nat) :
    ((fun u => State.portamentoStep u c)^[m] s).voice c =
      (·.glideStep (periodEntry s.cfg (s.voice c).note))^[m] (s.voice c) := by
  induction m generalizing s with
  | zero => rfl
  | succ m ih =>
    have hnote : ((s.voice c).glideStep (periodEntry s.cfg (s.voice c).note)).note = (s.voice c).note := by
      rw [Voice.glideStep_frame]
    rw [Function.iterate_succ_apply, Function.iterate_succ_apply, s.portamentoStep_glide hc, ih, State.setVoice_voice_same,
      State.setVoice_cfg, hnote]

/-- Settles O32: a step by where the period is, and the steps of a glide by induction. -/
theorem glideReachesItsTarget : Obligations.GlideReachesItsTarget := by
  refine ⟨fun s c hc => ?_, fun s c m => ?_⟩
  · intro x y entry p t d down up snapped
    have hy : y = x.glideStep entry := by
      simp only [y, s.portamentoStep_glide hc, State.setVoice_voice_same, x, entry]
    have hdown : (x.period - portaStep x.portaRate).toNat = down := period_sub_toNat _ _
    have hup : (x.period + portaStep x.portaRate).toNat = up := period_add_toNat _ _
    refine ⟨?_, fun hinactive => ?_, fun hactive heq => ?_, fun hactive hlt => ?_, fun hactive hlt => ?_⟩
    · rw [hy]
      exact s.portamentoStep_glide hc
    · rw [hy, Voice.glideStep_of_inactive hinactive]
    · rw [hy, Voice.glideStep_of_arrived hactive heq]
      rfl
    · rw [hy, Voice.glideStep_of_above hactive hlt, ← hdown, BitVec.ofNat_toNat, BitVec.setWidth_eq]
      rfl
    · rw [hy, Voice.glideStep_of_below hactive hlt, ← hup, BitVec.ofNat_toNat, BitVec.setWidth_eq]
      rfl
  · intro p t d n hc hactive hd hdown hup hm
    have hd' : d = (portaStep (s.voice c).portaRate).toNat := (portaStep_toNat _).symm
    rw [s.portamento_iterate hc]
    rw [hd'] at hd hdown hup
    exact Voice.glide_iterate hactive (Voice.glidesWithin_ceil (by rw [← hd']) hd hdown hup) hm

/-! ## The slide of channel 0 -/

/-- What a slide adds to the period in a step: twice the magnitude, down when bit 7 of the rate is set (R110). -/
def Voice.slideBy (x : Voice) : Int :=
  if x.portaRate.getLsbD 7 then -(2 * (portaMagnitude x.portaRate).toNat) else 2 * (portaMagnitude x.portaRate).toNat

theorem Voice.slideStep_of_active {x : Voice} (h : x.portaActive = true) :
    x.slideStep = { x with period := x.period + BitVec.ofInt 16 x.slideBy } := by
  have hstep : portaStep x.portaRate = BitVec.ofInt 16 (2 * (portaMagnitude x.portaRate).toNat) := by
    rw [portaStep, ← BitVec.ofInt_natCast, Nat.cast_mul]
    rfl
  unfold Voice.slideStep Voice.slideBy portaUp
  rw [h, hstep]
  cases x.portaRate.getLsbD 7 with
  | true => simp [BitVec.ofInt_neg, BitVec.sub_eq_add_neg]
  | false => simp

/-- A slide never ends, and each step adds the same (R110). -/
theorem Voice.slide_iterate {x : Voice} (h : x.portaActive = true) (m : Nat) :
    Voice.slideStep^[m] x = { x with period := x.period + BitVec.ofInt 16 (m * x.slideBy) } := by
  induction m with
  | zero => simp
  | succ m ih =>
    have hsum : ((m + 1 : Nat) : Int) * x.slideBy = m * x.slideBy + x.slideBy := by
      push_cast
      ring
    rw [Function.iterate_succ_apply', ih, hsum, BitVec.ofInt_add, ← BitVec.add_assoc]
    exact Voice.slideStep_of_active (x := { x with period := x.period + BitVec.ofInt 16 (m * x.slideBy) }) h

theorem State.portamento_iterate_zero (s : State) (m : Nat) :
    ((fun u => State.portamentoStep u .i0)^[m] s).voice .i0 = Voice.slideStep^[m] (s.voice .i0) := by
  induction m with
  | zero => rfl
  | succ m ih =>
    rw [Function.iterate_succ_apply', Function.iterate_succ_apply', ← ih]
    exact State.setVoice_voice_same _ _ _

/-- Settles O33: the steps add up. -/
theorem channelZeroSlidesForEver : Obligations.ChannelZeroSlidesForEver := by
  intro s m hactive d
  have htotal : (if (s.voice .i0).portaRate.getLsbD 7 then -(m * d) else m * d) = m * (s.voice .i0).slideBy := by
    unfold Voice.slideBy
    split
    · exact (mul_neg _ _).symm
    · rfl
  rw [s.portamento_iterate_zero, Voice.slide_iterate hactive, htotal, BitVec.ofInt_add, BitVec.ofInt_natCast,
    BitVec.ofNat_toNat, BitVec.setWidth_eq]

/-! ## The output period -/

theorem vibMag_reference_toNat (ph d : Byte) : (vibMag .reference ph d).toNat = ph.toNat * d.toNat / 256 := by
  have hproduct : ph.toNat * d.toNat ≤ 255 * 255 := Nat.mul_le_mul (by omega) (by omega)
  simp only [vibMag, refVibMag, BitVec.toNat_ofNat]
  omega

/-- The output period, as the sum modulo 0x4000 (R112). -/
theorem Voice.outPeriod_toNat (x : Voice) (c : Chan) (m : BitVec 14) :
    ((x.outPeriod c m).toNat : Int) =
      (x.period.toNat + (if x.lfoPolarity then -(m.toNat : Int) else m.toNat) +
        (if c = .i0 then 0 else x.detune.toInt)) % 0x4000 := by
  unfold Voice.outPeriod
  dsimp only
  rw [BitVec.toNat_ofInt, Int.toNat_of_nonneg (Int.emod_nonneg _ (by decide))]
  congr 1
  split <;> split <;> ring

/-- Settles O34: the sum, and a period write that leaves the stored period. -/
theorem outputPeriodIsVibratoAndDetune : Obligations.OutputPeriodIsVibratoAndDetune := by
  refine ⟨fun s c => ⟨Voice.outPeriod_toNat _ c _, ?_⟩, vibMag_reference_toNat⟩
  rw [State.periodWrite_eq, State.voice, Quad.get_set_same]

end Sys2Proof.Machine
end

section
/-! PROOF of O35 to O37, O39, O41, O42, O45, O47 and O49 (R71 to R76, R79, R83, R84, R87 to R90, R92, R94). The commands
by their forms; the passes of a loop by induction; an event's frame once for both kinds, and its parts in numbers. -/

namespace Sys2Proof.Machine

/-! ## Commands by their form -/

/-- Settles O39: DOT is the flag command that sets its bit. -/
theorem dotSetsItsFlag : Obligations.DotSetsItsFlag :=
  ⟨rfl, fun _ => exec_flagCommand (n := 1) rfl (setDot_bit _)⟩

/-- What an instruction that fetches n bytes and rewrites the globals does. -/
theorem exec_globalCommand {i : Instr} {s : State} {n : Word} {x : Global}
    (hexec : exec i s = .next ((s.advanceCursor s.cur n).setG x)) :
    ∃ t, exec i s = .next t ∧ FrameGlobal s.cur n.toNat s t ∧ t.g = x :=
  ⟨_, hexec, ⟨⟨fun _ => rfl, rfl, rfl⟩, ⟨rfl, rfl, rfl⟩, rfl, s.advanceCursor_onlyCursor s.cur n⟩, rfl⟩

/-- Settles O41: both rewrite the globals, TEMPO with the assembled word. -/
theorem tempoAndGlobalTransposeWriteG : Obligations.TempoAndGlobalTransposeWriteG := by
  intro s
  refine ⟨fun w0 w1 => ⟨rfl, ?_⟩, fun a => ⟨rfl, exec_globalCommand (n := 2) rfl⟩⟩
  obtain ⟨t, hexec, hframe, hg⟩ := exec_globalCommand (i := .tempo w0 w1) (s := s) (n := 3) rfl
  refine ⟨t, hexec, hframe, ?_, ?_⟩
  · rw [hg]
    rfl
  · rw [hg]
    exact assemble_toNat _ w0 w1

/-- What an instruction that is a sequencer command does, its function leaving the cursor alone. -/
theorem exec_seqCommand {i : Instr} {s : State} {f : Seq → Seq} (hexec : exec i s = .next (s.seqCommand f))
    (hf : ∀ q, (f q).cursor = q.cursor) :
    ∃ t, exec i s = .next t ∧ FrameSeq s.cur s t ∧ CursorMoved s.cur 2 s t ∧
      t.seq s.cur = f { s.seq s.cur with cursor := (t.seq s.cur).cursor } := by
  rw [State.seqCommand_eq] at hexec
  refine ⟨_, hexec, s.setSeq_frameSeq s.cur _, ?_, ?_⟩
  · rw [CursorMoved, State.setSeq_seq_same, hf]
    exact BitVec.toNat_add _ _
  · rw [State.setSeq_seq_same, hf]

/-- Settles O42: each is the sequencer command of its field. -/
theorem gateAndTransposeWriteTheirField : Obligations.GateAndTransposeWriteTheirField :=
  fun a _ => ⟨rfl, rfl, exec_seqCommand (f := fun q => { q with gate := a }) rfl fun _ => rfl,
    exec_seqCommand (f := fun q => { q with ttrans := a }) rfl fun _ => rfl⟩

/-- PORTA's setter, with the magnitude as a number (R90). -/
theorem Voice.setPorta_eq (x : Voice) (a : Byte) :
    x.setPorta a = { x with portaRate := a, portaActive := x.portaActive && decide (a.toNat % 128 ≠ 0) } := by
  unfold Voice.setPorta
  by_cases hzero : a.toNat % 128 = 0
  · rw [if_pos ((portaMagnitude_eq_zero a).mpr hzero)]
    simp [hzero]
  · rw [if_neg (mt (portaMagnitude_eq_zero a).mp hzero)]
    simp [hzero]

/-- Settles O45: each is the voice command of its setter. -/
theorem detuneAndPortamentoAreStored : Obligations.DetuneAndPortamentoAreStored := by
  intro a s
  refine ⟨rfl, rfl, exec_voiceCommand (f := (·.setDetune a)) rfl, ?_⟩
  rw [← Voice.setPorta_eq]
  exact exec_voiceCommand (f := (·.setPorta a)) rfl

/-- Settles O49: the cursor is the assembled target. -/
theorem jumpSetsTheCursor : Obligations.JumpSetsTheCursor := by
  intro t0 t1 s
  refine ⟨rfl, _, exec_jump t0 t1 s, s.setSeq_frameSeq s.cur _, ?_, ?_⟩
  · rw [State.setCursor_seq_same]
  · rw [State.setCursor_seq_same]
    exact assemble_toNat _ t0 t1

/-! ## The passes of a loop -/

/-- The state with the counter of one level of the current channel replaced. -/
def State.withCounter (s : State) (k : Level) (n : Byte) : State :=
  s.setSeq s.cur { s.seq s.cur with loop := (s.seq s.cur).loop.set k n }

theorem State.withCounter_seq (s : State) (k : Level) (n : Byte) :
    (s.withCounter k n).seq s.cur = { s.seq s.cur with loop := (s.seq s.cur).loop.set k n } :=
  State.setSeq_seq_same _ _ _

/-- A pass that comes back to the loop-end changes its counter alone. -/
theorem loopPass_eq (k : Level) (a t0 t1 : Byte) (s : State) :
    loopPass k a t0 t1 s = s.withCounter k (loopCount ((s.seq s.cur).loop.get k) a) := by
  unfold loopPass
  rw [loopInstr_exec]
  dsimp only
  rw [State.setCursor, State.loopEnd_seq_same, State.loopEnd_eq, State.setSeq_setSeq]
  rfl

theorem loopPass_iterate (k : Level) (a t0 t1 : Byte) (s : State) (j : Nat) :
    (loopPass k a t0 t1)^[j] s = s.withCounter k ((loopCount · a)^[j] ((s.seq s.cur).loop.get k)) := by
  induction j with
  | zero =>
    rw [Function.iterate_zero_apply, Function.iterate_zero_apply, State.withCounter, Quad.set_get, State.setSeq,
      State.set_seq_self]
  | succ j ih =>
    rw [Function.iterate_succ_apply', Function.iterate_succ_apply', ih, loopPass_eq]
    generalize (loopCount · a)^[j] ((s.seq s.cur).loop.get k) = n
    have hcur : (s.withCounter k n).cur = s.cur := rfl
    rw [State.withCounter, hcur, State.withCounter_seq, Quad.get_set_same, Quad.set_set]
    rw [State.withCounter, State.setSeq_setSeq]
    rfl

/-- From 0, the counter of a loop of a passes is a - j after the j-th (R92). -/
theorem loopCount_iterate {a : Byte} {j : Nat} (hj : j < a.toNat) :
    ((loopCount · a)^[j + 1] 0).toNat = a.toNat - (j + 1) := by
  have hsmall := a.isLt
  induction j with
  | zero =>
    have hzero : (0 : Byte).toNat = 0 := rfl
    rw [Function.iterate_succ_apply', Function.iterate_zero_apply, loopCount_toNat, if_pos hzero]
    omega
  | succ j ih =>
    have hcount := ih (Nat.lt_of_succ_lt hj)
    rw [Function.iterate_succ_apply', loopCount_toNat, if_neg (by omega)]
    omega

/-- Settles O47: after j passes the counter is known, and the next pass takes it one further. -/
theorem loopJumpsOnTheLastPassOnly : Obligations.LoopJumpsOnTheLastPassOnly := by
  intro k a t0 t1 s j hrule hzero hj
  have hcount := loopCount_iterate hj
  rw [Function.iterate_succ_apply'] at hcount
  rw [loopPass_iterate, hzero]
  generalize (loopCount · a)^[j] 0 = n at hcount
  have hcounter : ((s.withCounter k n).seq s.cur).loop.get k = n := by
    rw [State.withCounter_seq, Quad.get_set_same]
  have hcursor : ((s.withCounter k n).seq s.cur).cursor = (s.seq s.cur).cursor := by
    rw [State.withCounter_seq]
  have hnext := (s.withCounter k n).loopEnd_counter_same k a t0 t1
  have htarget := (s.withCounter k n).loopEnd_cursor k a t0 t1
  have hcur : (s.withCounter k n).cur = s.cur := rfl
  have hcfg : (s.withCounter k n).cfg = s.cfg := rfl
  rw [hcur, hcounter] at hnext
  rw [hcur, hcursor, hcfg, hrule, hnext] at htarget
  refine ⟨_, loopInstr_exec k a t0 t1 _, ?_, ?_⟩
  · rw [hnext, hcount]
  · have hjumps : loopJumps .expiryJump (loopCount n a) = true ↔ j + 1 = a.toNat := by
      rw [loopJumps_iff, hcount]
      simp
      omega
    rw [htarget]
    simp only [hjumps]

/-! ## Note and rest events -/

/-- The event byte: the length class over the pitch (R58). -/
theorem encodeEvent_eq_ofNat : ∀ (k : Fin 7) (p : BitVec 5),
    encodeEvent k p = BitVec.ofNat 8 (32 * (k.val + 1) + p.toNat) := by decide

/-- An event's length: the table by the triplet flag, half as long again with the dot (R71). -/
theorem State.eventLength_toNat (s : State) (c : Chan) (k : Fin 7) :
    let d0 := (if (s.seq c).flags.getLsbD 0 then s.cfg.noteLenTriplet[k] else s.cfg.noteLen[k]).toNat
    (s.eventLength c k).toNat = if (s.seq c).flags.getLsbD 2 then (d0 + d0 / 2) % 256 else d0 := by
  intro d0
  show (if (s.seq c).flags.getLsbD 2 then dotted _ else _).toNat = _
  split
  · exact dotted_toNat _
  · rfl

/-- The state after an event that leaves the current channel's voice as x and its sequencer as q. -/
def State.eventDone (s : State) (x : Voice) (q : Seq) : State :=
  State.leaveChannel { s with v := s.v.set s.cur x, q := s.q.set s.cur q }

section EventDone

variable (s : State) (x : Voice) (q : Seq)

theorem State.eventDone_v : (s.eventDone x q).v = s.v.set s.cur x := State.leaveChannel_v _

theorem State.eventDone_voice_same : (s.eventDone x q).voice s.cur = x := by
  rw [State.voice, State.eventDone_v, Quad.get_set_same]

theorem State.eventDone_seq (d : Chan) : (s.eventDone x q).seq d = if d = s.cur then q else s.seq d := by
  rw [State.eventDone, State.leaveChannel_seq]
  exact Quad.get_set s.q s.cur d q

theorem State.eventDone_seq_same : (s.eventDone x q).seq s.cur = q := by
  rw [State.eventDone_seq, if_pos rfl]

theorem State.eventDone_onlyVoice : OnlyVoice s.cur s (s.eventDone x q) := by
  intro d hd
  rw [State.voice, State.eventDone_v, Quad.get_set_other _ _ _ _ hd]
  rfl

/-- What an event leaves: the globals, the trace and the other sequencers; and the command loop returns (R70). -/
theorem State.eventDone_frame :
    let t := s.eventDone x q
    SameInputs s t ∧ t.g = s.g ∧ t.trace = s.trace ∧ t.result = s.result ∧ LoopReturned s t ∧ OnlySeq s.cur s t := by
  refine ⟨State.leaveChannel_sameInputs _, State.leaveChannel_g _, State.leaveChannel_trace _,
    State.leaveChannel_result _, State.leaveChannel_loopReturned rfl, fun d hd => ?_⟩
  rw [State.eventDone_seq, if_neg hd]

end EventDone

/-- What an event makes of its sequencer, in numbers (R71). -/
theorem Seq.eventTaken_toNat (q : Seq) (d : Byte) :
    (q.eventTaken d).cursor.toNat = (q.cursor.toNat + 1) % 65536 ∧
    (q.eventTaken d).duration.toNat = (q.duration.toNat + d.toNat) % 256 ∧
    ∀ j, j < 8 → (q.eventTaken d).flags.getLsbD j = (decide (j ≠ 2) && q.flags.getLsbD j) :=
  ⟨BitVec.toNat_add _ _, BitVec.toNat_add _ _, clearDot_bit _⟩

/-- Settles O35: the event's parts in numbers, and the release trigger. -/
theorem restReleasesAndWaits : Obligations.RestReleasesAndWaits := by
  intro k s q d0 d
  have hlength : (s.eventLength s.cur k).toNat = d := s.eventLength_toNat s.cur k
  obtain ⟨hcursor, hduration, hflags⟩ := q.eventTaken_toNat (s.eventLength s.cur k)
  rw [hlength] at hduration
  obtain ⟨hinputs, hg, htrace, hresult, hreturned, hothers⟩ := s.eventDone_frame (s.voice s.cur).release
    { q.eventTaken (s.eventLength s.cur k) with sustain := 0xFF, tiedIn := false }
  refine ⟨congrArg (Encoding.bytecode [·]) (encodeEvent_eq_ofNat k 0), s.eventDone _ _, exec_rest k s, hinputs, hg,
    htrace, hresult, hreturned, hothers, ?_⟩
  rw [CursorMoved, State.eventDone_seq_same, State.eventDone_v, Voice.release_eq]
  exact ⟨hcursor, hduration, hflags, rfl, rfl⟩

/-- Settles O36: the event's parts in numbers, and the gate's. -/
theorem noteSetsItsTiming : Obligations.NoteSetsItsTiming := by
  intro k p s _ q d0 d
  have hlength : (s.eventLength s.cur k).toNat = d := s.eventLength_toNat s.cur k
  obtain ⟨hcursor, hduration, hflags⟩ := q.eventTaken_toNat (s.eventLength s.cur k)
  have hsustain : (if flagTie q.flags then (0xFF : Byte) else gateSustain q.gate (s.eventLength s.cur k)).toNat =
      if q.flags.getLsbD 1 then 0xFF else max 1 (q.gate.toNat * d / 256) := by
    rw [apply_ite BitVec.toNat, gateSustain_toNat, hlength]
    rfl
  rw [hlength] at hduration
  obtain ⟨hinputs, hg, htrace, hresult, hreturned, hothers⟩ := s.eventDone_frame
    ((s.voice s.cur).noteOn (s.noteNumber s.cur p) (periodEntry s.cfg (s.noteNumber s.cur p)) (!q.tiedIn))
    { q.eventTaken (s.eventLength s.cur k) with
      sustain := if flagTie q.flags then 0xFF else gateSustain q.gate (s.eventLength s.cur k)
      tiedIn := flagTie q.flags }
  refine ⟨congrArg (Encoding.bytecode [·]) (encodeEvent_eq_ofNat k p), s.eventDone _ _, exec_note k p s, hinputs, hg,
    htrace, hresult, hreturned, hothers, s.eventDone_onlyVoice _ _, ?_⟩
  rw [CursorMoved, State.eventDone_seq_same]
  exact ⟨hcursor, hduration, hsustain, hflags, rfl⟩

/-- The octave entry, its index as the 15va flag over the octave (R28, R74). -/
theorem octaveEntry_octaveIndex (cfg : Cfg) (f : Byte) :
    octaveEntry cfg (octaveIndex f) =
      cfg.octaveTable.toList.getD ((if f.getLsbD 3 then 8 else 0) + f.toNat / 16 % 8) 0 := by
  have hlt : (octaveIndex f).toNat < cfg.octaveTable.toList.length := by
    rw [Vector.length_toList]
    exact (octaveIndex f).isLt
  rw [← octaveIndex_toNat, List.getD_eq_getElem _ _ hlt]
  rfl

/-- Settles O37: a note's voice, with its number in numbers. -/
theorem noteSetsItsPitch : Obligations.NoteSetsItsPitch := by
  intro k p s hp q x oi sum
  refine ⟨s.eventDone _ _, exec_note k p s, ?_⟩
  have hnote : (s.noteNumber s.cur p).val = min sum 95 := by
    rw [State.noteNumber, absoluteNote_val _ _ _ _ hp, octaveEntry_octaveIndex]
  rw [State.eventDone_voice_same, Voice.noteOn_eq]
  refine ⟨hnote, ?_, rfl, rfl⟩
  have hsnap : (x.portaRate.toNat % 128 = 0 ∨ q.tiedIn = false) ↔
      (portaMagnitude x.portaRate = 0 ∨ (!q.tiedIn) = true) := by
    rw [portaMagnitude_eq_zero, Bool.not_eq_true']
  split
  next h => exact ⟨if_pos (hsnap.mp h), by rw [decide_eq_true (hsnap.mp h), Bool.not_true]⟩
  next h => exact ⟨if_neg (mt hsnap.mpr h), by rw [decide_eq_false (mt hsnap.mpr h), Bool.not_false]⟩

end Sys2Proof.Machine
end
